-- ==== Sys2Proof/Word.lean ====
section
/-! DEFINITION. The word types of the block (00_scope.md R9, R12; 40_word_arith.md R120, R124).
Addition `+`, `^^^`, `&&&`, `|||`, `~~~`, `>>>` and `<<<` on `BitVec` are the spec's operators of R12 at each width. -/

namespace Sys2Proof

/-- A byte of a buffer. -/
abbrev Byte := BitVec 8

/-- A 32-bit word (R120); also the host port's data width and a command word's width (R60, R90). -/
abbrev Word := BitVec 32

/-- A 64-bit word (R124). -/
abbrev DWord := BitVec 64

end Sys2Proof
end

