-- ==== Sys2Proof/Syntax.lean ====
section
/-! DEFINITION. The commands of the block, one constructor per row of spec/opcode_table.json (30_encoding.md R93). -/

namespace Sys2Proof

/-- A command. Operand fields are the bits of the command word as written, unsigned and unscaled (R91); their ranges are
checked at issue, not by the format (R91, R95). All other operands are fixed state (R92). -/
inductive Instr where
  | nop
  | sha256Init
  | sha256Compress
  | sha256Zero
  | sha512Init
  | sha512Compress
  | sha512Zero
  /-- BLAKE2B_INIT with digest length NN (field A) and key length KK (field B). -/
  | blake2bInit (nn kk : BitVec 8)
  /-- BLAKE2B_COMPRESS with byte count LEN (field A) and final-block flag F. -/
  | blake2bCompress (len : BitVec 8) (f : Bool)
  | salsa20_8
  | blockmix
  | romix
  deriving DecidableEq, Repr

end Sys2Proof
end

