-- ==== Sys2Proof/WellFormed.lean ====
section
/-! DEFINITION. Which commands have operand fields in the ranges of 30_encoding.md R91. A command outside them is still
decoded and still runs: its issue is rejected with a code of its own (R95, 60_exceptions.md R340). -/

namespace Sys2Proof

/-- The operand ranges of R91: NN in 1..64, KK in 0..64, LEN in 0..128; the other commands have no operand field. -/
def WellFormed : Instr → Bool
  | .nop => true
  | .sha256Init => true
  | .sha256Compress => true
  | .sha256Zero => true
  | .sha512Init => true
  | .sha512Compress => true
  | .sha512Zero => true
  | .blake2bInit nn kk => decide (1 ≤ nn.toNat ∧ nn.toNat ≤ 64 ∧ kk.toNat ≤ 64)
  | .blake2bCompress len _ => decide (len.toNat ≤ 128)
  | .salsa20_8 => true
  | .blockmix => true
  | .romix => true

end Sys2Proof
end

