-- ==== Sys2Proof/Decode.lean ====
section
/-! DEFINITION. Decoding and encoding of command words (30_encoding.md R90 to R97): one format, one length, one 32-bit word. -/

namespace Sys2Proof

/-- Why a word is no command: the three ways a word is illegal (R95). All are reported to the host as ILLEGAL_CMD. -/
inductive Illegal where
  /-- RSV ≠ 0 (R95 b). -/
  | reservedBits
  /-- OP is not in the opcode map (R95 a). -/
  | unknownOpcode
  /-- A field the opcode does not use is nonzero (R95 c). -/
  | unusedField
  deriving DecidableEq, Repr

/-! ## The fields of CMDW (R90) -/

/-- OP, bits 7:0. -/
def fieldOp (w : Word) : BitVec 8 := w.extractLsb' 0 8

/-- A, bits 15:8. -/
def fieldA (w : Word) : BitVec 8 := w.extractLsb' 8 8

/-- B, bits 23:16. -/
def fieldB (w : Word) : BitVec 8 := w.extractLsb' 16 8

/-- F, bit 24. -/
def fieldF (w : Word) : Bool := w.getLsbD 24

/-- RSV, bits 31:25. -/
def fieldRsv (w : Word) : BitVec 7 := w.extractLsb' 25 7

/-! ## Decoding (R96) -/

/-- The command `i` if `used` says the fields `i` does not use are zero (R95 c). -/
def acceptIf (unusedZero : Bool) (i : Instr) : Except Illegal Instr :=
  if unusedZero then .ok i else .error .unusedField

/-- A = 0, B = 0 and F = 0: the condition of every command without operand fields. -/
def fieldsZero (w : Word) : Bool := fieldA w == 0 && fieldB w == 0 && !fieldF w

/-- The decoder of R96, total on all 2^32 words. -/
def decodeWord (w : Word) : Except Illegal Instr :=
  if fieldRsv w ≠ 0 then .error .reservedBits
  else match fieldOp w with
    | 0x00#8 => acceptIf (fieldsZero w) .nop
    | 0x01#8 => acceptIf (fieldsZero w) .sha256Init
    | 0x02#8 => acceptIf (fieldsZero w) .sha256Compress
    | 0x03#8 => acceptIf (fieldsZero w) .sha256Zero
    | 0x11#8 => acceptIf (fieldsZero w) .sha512Init
    | 0x12#8 => acceptIf (fieldsZero w) .sha512Compress
    | 0x13#8 => acceptIf (fieldsZero w) .sha512Zero
    | 0x21#8 => acceptIf (!fieldF w) (.blake2bInit (fieldA w) (fieldB w))
    | 0x22#8 => acceptIf (fieldB w == 0) (.blake2bCompress (fieldA w) (fieldF w))
    | 0x31#8 => acceptIf (fieldsZero w) .salsa20_8
    | 0x32#8 => acceptIf (fieldsZero w) .blockmix
    | 0x33#8 => acceptIf (fieldsZero w) .romix
    | _ => .error .unknownOpcode

/-! ## Encoding (R90, R93, R98) -/

/-- A word of the format CMDW with RSV = 0. -/
def cmdw (op a b : BitVec 8) (f : Bool) : Word := 0#7 ++ BitVec.ofBool f ++ b ++ a ++ op

/-- The word of a command (R93, R98). -/
def encode : Instr → Word
  | .nop => cmdw 0x00 0 0 false
  | .sha256Init => cmdw 0x01 0 0 false
  | .sha256Compress => cmdw 0x02 0 0 false
  | .sha256Zero => cmdw 0x03 0 0 false
  | .sha512Init => cmdw 0x11 0 0 false
  | .sha512Compress => cmdw 0x12 0 0 false
  | .sha512Zero => cmdw 0x13 0 0 false
  | .blake2bInit nn kk => cmdw 0x21 nn kk false
  | .blake2bCompress len f => cmdw 0x22 len 0 f
  | .salsa20_8 => cmdw 0x31 0 0 false
  | .blockmix => cmdw 0x32 0 0 false
  | .romix => cmdw 0x33 0 0 false

/-! ## The opcode table (R94) -/

/-- A row of the table of R94: the word selects the command iff `w &&& mask = value`. -/
structure OpcodeRow where
  mnemonic : String
  value    : Word
  mask     : Word
  deriving DecidableEq, Repr

/-- The match and mask rows of R94. -/
def opcodeRows : List OpcodeRow :=
  [ ⟨"NOP",              0x00000000, 0xFFFFFFFF⟩,
    ⟨"SHA256_INIT",      0x00000001, 0xFFFFFFFF⟩,
    ⟨"SHA256_COMPRESS",  0x00000002, 0xFFFFFFFF⟩,
    ⟨"SHA256_ZERO",      0x00000003, 0xFFFFFFFF⟩,
    ⟨"SHA512_INIT",      0x00000011, 0xFFFFFFFF⟩,
    ⟨"SHA512_COMPRESS",  0x00000012, 0xFFFFFFFF⟩,
    ⟨"SHA512_ZERO",      0x00000013, 0xFFFFFFFF⟩,
    ⟨"BLAKE2B_INIT",     0x00000021, 0xFF0000FF⟩,
    ⟨"BLAKE2B_COMPRESS", 0x00000022, 0xFEFF00FF⟩,
    ⟨"SALSA20_8",        0x00000031, 0xFFFFFFFF⟩,
    ⟨"BLOCKMIX",         0x00000032, 0xFFFFFFFF⟩,
    ⟨"ROMIX",            0x00000033, 0xFFFFFFFF⟩ ]

/-- The word selects the row (R94). -/
def OpcodeRow.selects (row : OpcodeRow) (w : Word) : Bool := w &&& row.mask == row.value

/-- The row's mnemonic of each command (R93). -/
def mnemonicOf : Instr → String
  | .nop => "NOP"
  | .sha256Init => "SHA256_INIT"
  | .sha256Compress => "SHA256_COMPRESS"
  | .sha256Zero => "SHA256_ZERO"
  | .sha512Init => "SHA512_INIT"
  | .sha512Compress => "SHA512_COMPRESS"
  | .sha512Zero => "SHA512_ZERO"
  | .blake2bInit _ _ => "BLAKE2B_INIT"
  | .blake2bCompress _ _ => "BLAKE2B_COMPRESS"
  | .salsa20_8 => "SALSA20_8"
  | .blockmix => "BLOCKMIX"
  | .romix => "ROMIX"

/-- The command in a table word: a command word has 32 bits (R97), given as the number `w` with bit 0 the least significant
bit; the bits above `nbits` are 0. A longer word is no command. -/
def decodeTableWord (nbits w : Nat) : Option Instr :=
  if nbits ≤ 32 ∧ w < 2 ^ nbits then (decodeWord (BitVec.ofNat 32 w)).toOption else none

end Sys2Proof
end

