-- ==== Sys2Proof/Machine/Bits.lean ====
section
/-! DEFINITION. Rotations and shifts, the 32-bit lane forms of 64-bit arithmetic, and byte order (00_scope.md R12, R13;
40_word_arith.md R121 to R131). Engines compute with the 64-bit operations (R124, R130); the lane forms are what the block's
datapath implements, and the two are stated to agree. -/

namespace Sys2Proof.Machine

/-! ## Rotations (R121, R122) -/

/-- `rotr_w(a, n)` (R121), for 0 ≤ n < w. -/
def rotr {w : Nat} (a : BitVec w) (n : Nat) : BitVec w := (a >>> n) ||| (a <<< (w - n))

/-- `rotl_w(a, n)` (R122). -/
def rotl {w : Nat} (a : BitVec w) (n : Nat) : BitVec w := rotr a ((w - n) % w)

/-! ## Lanes of a 64-bit word (R125) -/

/-- The high lane, bits 63:32. -/
def hiLane (w : DWord) : Word := w.extractLsb' 32 32

/-- The low lane, bits 31:0. -/
def loLane (w : DWord) : Word := w.extractLsb' 0 32

/-- The word of a lane pair, `hi·2^32 + lo`. -/
def ofLanes (hi lo : Word) : DWord := hi ++ lo

/-- Lane addition with carry (R126): the sum of two lane pairs, as a lane pair (high lane first). -/
def laneAdd (ah al bh bl : Word) : Word × Word :=
  let s := al.toNat + bl.toNat
  let c := if s ≥ 2 ^ 32 then 1 else 0
  (BitVec.ofNat 32 (ah.toNat + bh.toNat + c), BitVec.ofNat 32 s)

/-- Lane right rotation by a constant 0 < n < 64 (R128). -/
def laneRotr (hi lo : Word) (n : Nat) : Word × Word :=
  if n < 32 then ((hi >>> n) ||| (lo <<< (32 - n)), (lo >>> n) ||| (hi <<< (32 - n)))
  else if n = 32 then (lo, hi)
  else ((lo >>> (n - 32)) ||| (hi <<< (32 - (n - 32))), (hi >>> (n - 32)) ||| (lo <<< (32 - (n - 32))))

/-- Lane logical right shift by a constant 0 < n < 64 (R129). -/
def laneShr (hi lo : Word) (n : Nat) : Word × Word :=
  if n < 32 then (hi >>> n, (lo >>> n) ||| (hi <<< (32 - n)))
  else (0, hi >>> (n - 32))

/-! ## Byte order (R13, R131) -/

/-- Byte `i` of a byte string; past its end 0, which no rule reads. -/
def byteAt (B : List Byte) (i : Nat) : Byte := B.getD i 0

/-- `BE32(B, i)`. -/
def be32 (B : List Byte) (i : Nat) : Word :=
  byteAt B i ++ byteAt B (i + 1) ++ byteAt B (i + 2) ++ byteAt B (i + 3)

/-- `LE32(B, i)`. -/
def le32 (B : List Byte) (i : Nat) : Word :=
  byteAt B (i + 3) ++ byteAt B (i + 2) ++ byteAt B (i + 1) ++ byteAt B i

/-- `BE64(B, i)`. -/
def be64 (B : List Byte) (i : Nat) : DWord := be32 B i ++ be32 B (i + 4)

/-- `LE64(B, i)`. -/
def le64 (B : List Byte) (i : Nat) : DWord := le32 B (i + 4) ++ le32 B i

/-- `le32bytes(w)`. -/
def le32bytes (w : Word) : List Byte :=
  [w.extractLsb' 0 8, w.extractLsb' 8 8, w.extractLsb' 16 8, w.extractLsb' 24 8]

/-- `be32bytes(w)`. -/
def be32bytes (w : Word) : List Byte :=
  [w.extractLsb' 24 8, w.extractLsb' 16 8, w.extractLsb' 8 8, w.extractLsb' 0 8]

/-- `le64bytes(w)`. -/
def le64bytes (w : DWord) : List Byte := le32bytes (loLane w) ++ le32bytes (hiLane w)

/-- `be64bytes(w)`. -/
def be64bytes (w : DWord) : List Byte := be32bytes (hiLane w) ++ be32bytes (loLane w)

/-- `bswap32(w)` (R131). -/
def bswap32 (w : Word) : Word :=
  w.extractLsb' 0 8 ++ w.extractLsb' 8 8 ++ w.extractLsb' 16 8 ++ w.extractLsb' 24 8

/-- Bytewise XOR of two byte strings of one length (R245). -/
def xorBytes (a b : List Byte) : List Byte := List.zipWith (· ^^^ ·) a b

/-! ## The words of the 128-bit counter (R45) -/

/-- `t[32q+31 : 32q]`. -/
def counterWord (t : BitVec 128) (q : Nat) : Word := t.extractLsb' (32 * q) 32

/-- `t` with its word `q` replaced, the other bits unchanged (45_control.md R283). -/
def setCounterWord (t : BitVec 128) (q : Nat) (v : Word) : BitVec 128 :=
  (t &&& ~~~((BitVec.allOnes 32).setWidth 128 <<< (32 * q))) ||| (v.setWidth 128 <<< (32 * q))

end Sys2Proof.Machine
end

