-- ==== Sys2Proof/Config.lean ====
section
/-! DEFINITION. The implementation parameters a model takes (00_scope.md R9).

HOST_BASE and IRQ_ROUTING are platform parameters the block does not see (R60, R350). LATENCY (R392) is not a number here:
it is where the unit's turns stand in `State.inbox` (log entry 1). The block leaves no result of a command open, so there is
no free value. -/

namespace Sys2Proof

/-- The two buffer sizes left open by R9 (decision D25). They are carried by `State.cfg`, so that every statement about a
state ranges over all of them; no step changes them (log entry 4). -/
structure Config where
  /-- `XBUF_BYTES`, the size of the scrypt working buffer. -/
  xbufBytes    : Nat
  /-- `SCRATCH_BYTES`, the size of the scratch table V. -/
  scratchBytes : Nat
  deriving DecidableEq, Repr

/-- The spec's default parameters (R9): 64 KiB and 16 MiB. -/
def Config.default : Config := { xbufBytes := 65536, scratchBytes := 16777216 }

/-- The values R9 allows: XBUF_BYTES a multiple of 128 in 128..65536; SCRATCH_BYTES a multiple of 1024 with
1024 ≤ SCRATCH_BYTES < 2^42. -/
def Config.wf (c : Config) : Bool :=
  decide (c.xbufBytes % 128 = 0 ∧ 128 ≤ c.xbufBytes ∧ c.xbufBytes ≤ 65536 ∧
    c.scratchBytes % 1024 = 0 ∧ 1024 ≤ c.scratchBytes ∧ c.scratchBytes < 2 ^ 42)

end Sys2Proof
end

