-- ==== Sys2Proof/Machine/State.lean ====
section
/-! DEFINITION. The state of the block (10_state.md R55) together with its surroundings: the parameters, the schedule of
events still to come and the replies given so far. -/

namespace Sys2Proof.Machine

/-- Why the machine stops. -/
inductive Fault where
  /-- Raised by the unit's turn (`Sequencer.turn`) when BUSY = 1 and PENDING = none, which R50 and R55 rule out. Safe: no state
  a run reaches raises it, and the model stops rather than goes on. -/
  | busyWithoutPending
  deriving DecidableEq, Repr

/-- Why a step has no meaning. -/
inductive Refusal where
  /-- Raised by an arm of `exec` whose command has no meaning yet. Safe: the model stops. -/
  | notModelled (mnemonic : String)
  deriving DecidableEq, Repr

/-- Byte-addressed storage: the bytes that are not 0, by strictly rising address. An unlisted address reads 0, the reset value of
every buffer byte (R54). -/
abbrev Memory := List Host.Cell

/-- One access of the host to the window (20_memory.md R60): an offset and a size in bytes, and the value of a write. -/
inductive Access where
  | read (off size : Nat)
  | write (off size : Nat) (v : Word)
  deriving DecidableEq, Repr

/-- What the bus answers to an access (45_control.md R282). -/
inductive Reply where
  /-- The value of a read. -/
  | value (v : Word)
  /-- A write was taken (which may have been ignored, R286, R287). -/
  | written
  /-- The access was rejected. -/
  | busError (off : Nat)
  deriving DecidableEq, Repr

/-- Whose step comes next (45_control.md R290, R291). -/
inductive Event where
  /-- The host performs one access. -/
  | host (a : Access)
  /-- The unit has a turn: it completes the pending command, if there is one. -/
  | unit
  /-- The RESET input is asserted (70_reset_and_hazards.md R380). -/
  | reset
  deriving DecidableEq, Repr

/-- The command errors of 60_exceptions.md R340. -/
inductive CmdError where
  | illegalCmd
  | badOutlen
  | badKeylen
  | badBlocklen
  | tooLarge
  | invalidCost
  | zeroParam
  | capacity
  deriving DecidableEq, Repr

/-- The record of R55, the scratch table V (R49), the parameters (R9), and two fields of the model's own. -/
structure State where
  /-- CTRL.IE (R31). -/
  ie      : Bool
  /-- STATUS.BUSY (R32). -/
  busy    : Bool
  /-- STATUS.DONE (R32). -/
  done    : Bool
  /-- STATUS.ERR (R32). -/
  err     : Bool
  /-- STATUS.BUSYWR (R32). -/
  busywr  : Bool
  /-- STATUS.B2FIN, the BLAKE2b finalized flag (R47). -/
  b2fin   : Bool
  /-- STATUS.ERRCODE (R32). -/
  errcode : BitVec 8
  /-- ERRCMD (R37). -/
  errcmd  : Word
  /-- SCRYPT_N (R34). -/
  scryptN : Word
  /-- SCRYPT_R (R35). -/
  scryptR : Word
  /-- SCRYPT_P (R36). -/
  scryptP : Word
  /-- H256[0..7] (R40). -/
  h256    : Vector Word 8
  /-- H512[0..7] (R42). -/
  h512    : Vector DWord 8
  /-- B2H[0..7] (R44). -/
  b2h     : Vector DWord 8
  /-- B2T (R45). -/
  b2t     : BitVec 128
  /-- The byte buffers M256, M512, B2M and XBUF (R41, R43, R46, R48), each byte at its offset in the host window (R61). -/
  mem     : Memory
  /-- PENDING (R50). -/
  pending : Option Word
  /-- The scratch table V by scratch byte offset (R49, R252); not in the host window. -/
  scratch : Memory
  /-- The implementation parameters (R9), never changed (log entry 4). -/
  cfg     : Config
  /-- The model's own: the events still to come, oldest first (log entry 1). -/
  inbox   : List Event
  /-- The model's own: the replies to the host's accesses so far, newest first (log entry 8). -/
  replies : List Reply
  deriving DecidableEq, Repr

/-- What a step or a meaning answers. -/
abbrev Result := Host.Outcome State Fault Refusal

/-- The state after reset (R54) of a block with the parameters `c`. Every register's value is the spec's; `scratch` is a choice
(log entry 5), as are the empty `inbox` and `replies` (log entries 1 and 8). -/
def State.resetWith (c : Config) : State where
  ie      := false
  busy    := false
  done    := false
  err     := false
  busywr  := false
  b2fin   := false
  errcode := 0
  errcmd  := 0
  scryptN := 0
  scryptR := 0
  scryptP := 0
  h256    := Vector.replicate 8 0
  h512    := Vector.replicate 8 0
  b2h     := Vector.replicate 8 0
  b2t     := 0
  mem     := []
  pending := none
  scratch := []
  cfg     := c
  inbox   := []
  replies := []

/-- The machine right after reset, with the default parameters of R9. -/
def State.reset : State := State.resetWith Config.default

end Sys2Proof.Machine
end

