-- ==== Sys2Proof/Machine/Ops.lean ====
section
/-! DEFINITION. The shared operations: byte memory, the recording of a command error and its acknowledgement, the completion of
a command, and reset. -/

namespace Sys2Proof.Machine

/-! ## Byte memory -/

/-- The canonical form: addresses strictly rising, and no entry 0. -/
def Memory.wf : Memory → Bool
  | [] => true
  | [c] => c.2 != 0
  | c :: d :: m => c.2 != 0 && decide (c.1 < d.1) && Memory.wf (d :: m)

/-- The byte at address `a`; 0 where nothing is listed. -/
def Memory.read : Memory → Nat → Byte
  | [], _ => 0
  | c :: m, a => if c.1 = a then c.2 else Memory.read m a

/-- The cells of the byte string `bs` laid out from address `base`, its zero bytes left out. -/
def Memory.cells (base : Nat) : List Byte → Memory
  | [] => []
  | b :: bs => if b = 0 then Memory.cells (base + 1) bs else (base, b) :: Memory.cells (base + 1) bs

/-- The cells at addresses below `a`. -/
def Memory.below (m : Memory) (a : Nat) : Memory := m.filter fun c => decide (c.1 < a)

/-- The cells at address `a` and above. -/
def Memory.above (m : Memory) (a : Nat) : Memory := m.filter fun c => decide (a ≤ c.1)

/-- The `n` bytes from address `base`. -/
def Memory.readBytes (m : Memory) (base n : Nat) : List Byte :=
  let near := (m.above base).below (base + n)
  (List.range n).map fun i => near.read (base + i)

/-- The memory with the bytes `bs` stored from address `base`, every other byte unchanged. -/
def Memory.writeBytes (m : Memory) (base : Nat) (bs : List Byte) : Memory :=
  m.below base ++ Memory.cells base bs ++ m.above (base + bs.length)

/-- The host word at `off`: four bytes packed little-endian (20_memory.md R61). -/
def Memory.readWord (m : Memory) (off : Nat) : Word := le32 (m.readBytes off 4) 0

/-- The memory with the host word at `off` stored little-endian (20_memory.md R61). -/
def Memory.writeWord (m : Memory) (off : Nat) (v : Word) : Memory := m.writeBytes off (le32bytes v)

/-! ## The scratch controller's ports (44_salsa_scrypt.md R251, R252) -/

/-- Port R: `VRead(j)`, the 128·r bytes of entry `j`. -/
def vRead (v : Memory) (r j : Nat) : List Byte := v.readBytes (128 * r * j) (128 * r)

/-- Port W: `VWrite(i, blk)`, which stores `blk` as entry `i`. -/
def vWrite (v : Memory) (r i : Nat) (blk : List Byte) : Memory := v.writeBytes (128 * r * i) blk

/-! ## Command errors: recording and acknowledging (60_exceptions.md R340, R342, R347, R348) -/

/-- The code of each command error (R340). -/
def CmdError.code : CmdError → BitVec 8
  | .illegalCmd => 1
  | .badOutlen => 2
  | .badKeylen => 3
  | .badBlocklen => 4
  | .tooLarge => 5
  | .invalidCost => 6
  | .zeroParam => 7
  | .capacity => 8

/-- The entry of a command error: the rejection of the command word `w` (R342, R347). -/
def State.reject (s : State) (e : CmdError) (w : Word) : State :=
  { s with err := true, errcode := e.code, errcmd := w, done := true }

/-- The acknowledgement of a command error: ERR, ERRCODE and ERRCMD are cleared together (R348, 10_state.md R32). -/
def State.clearErr (s : State) : State := { s with err := false, errcode := 0, errcmd := 0 }

/-- The acknowledgement of DONE (R348). -/
def State.clearDone (s : State) : State := { s with done := false }

/-- The acknowledgement of BUSYWR (R348). -/
def State.clearBusywr (s : State) : State := { s with busywr := false }

/-! ## Commands: acceptance and completion (45_control.md R284, 60_exceptions.md R345) -/

/-- A valid command word is accepted (R284). -/
def State.accept (s : State) (w : Word) : State := { s with busy := true, pending := some w }

/-- The unit holds no command any more. -/
def State.release (s : State) : State := { s with busy := false, pending := none }

/-- The common end of every completion (R345). -/
def State.complete (s : State) : State := { s.release with done := true }

/-- The run of command `i` to its end: `verdict` is its validation (60_exceptions.md R341), `effect` what its completion does to
the engines. A pending command was validated at its issue and its inputs have not changed since (20_memory.md R72), so for it the
verdict is `none`; a command that does not validate is rejected with no effect at all (log entry 2). -/
def runCommand (i : Instr) (verdict : Option CmdError) (effect : State → State) (s : State) : Result :=
  match verdict with
  | none => .next (effect s).complete
  | some e => .next (s.release.reject e (encode i))

/-! ## Reset (70_reset_and_hazards.md R380, R381) -/

/-- Reset: every piece of the block's state takes its value of 10_state.md R54. The parameters, the events still to come and the
replies already given are not the block's state. -/
def State.resetBlock (s : State) : State :=
  { State.resetWith s.cfg with inbox := s.inbox, replies := s.replies }

/-! ## The bus -/

/-- The bus answers `r`. -/
def State.reply (s : State) (r : Reply) : State := { s with replies := r :: s.replies }

end Sys2Proof.Machine
end

