-- ==== Sys2Proof/Machine/Operands.lean ====
section
/-! DEFINITION. Operands: the locations of the host window (10_state.md R23) with reading and writing them, and the implicit
operands of the commands (30_encoding.md R92). -/

namespace Sys2Proof.Machine

/-! ## Buffers by window offset (10_state.md R23) -/

/-- The offset of M256 (R41). -/
abbrev m256Base : Nat := 0x140

/-- The offset of M512 (R43). -/
abbrev m512Base : Nat := 0x280

/-- The offset of B2M (R46). -/
abbrev b2mBase : Nat := 0x380

/-- The offset of XBUF (R48). -/
abbrev xbufBase : Nat := 0x10000

/-- The size of the host window, 2^17 bytes (20_memory.md R60). -/
abbrev windowBytes : Nat := 0x20000

/-- The offset lies in one of the byte buffers (R41, R43, R46, R48). -/
def inBuffer (c : Config) (off : Nat) : Bool :=
  decide (m256Base ≤ off ∧ off < m256Base + 64) || decide (m512Base ≤ off ∧ off < m512Base + 128) ||
  decide (b2mBase ≤ off ∧ off < b2mBase + 128) || decide (xbufBase ≤ off ∧ off < xbufBase + c.xbufBytes)

/-- M256, 64 bytes. -/
def State.m256 (s : State) : List Byte := s.mem.readBytes m256Base 64

/-- M512, 128 bytes. -/
def State.m512 (s : State) : List Byte := s.mem.readBytes m512Base 128

/-- B2M, 128 bytes. -/
def State.b2m (s : State) : List Byte := s.mem.readBytes b2mBase 128

/-- `XBUF[a..a+n)`. -/
def State.xbuf (s : State) (a n : Nat) : List Byte := s.mem.readBytes (xbufBase + a) n

/-- `XBUF[a..a+len(bs)) <- bs`. -/
def State.setXbuf (s : State) (a : Nat) (bs : List Byte) : State :=
  { s with mem := s.mem.writeBytes (xbufBase + a) bs }

/-! ## The scrypt operands as unsigned integers (10_state.md R34 to R36) -/

/-- N. -/
def State.costN (s : State) : Nat := s.scryptN.toNat

/-- r. -/
def State.blockR (s : State) : Nat := s.scryptR.toNat

/-- p. -/
def State.parP (s : State) : Nat := s.scryptP.toNat

/-! ## The locations of the host window (10_state.md R23) -/

/-- A mapped location, one 32-bit word of the window. -/
inductive Loc where
  | id
  | ctrl
  | status
  | cmd
  | scryptN
  | scryptR
  | scryptP
  | errcmd
  | capXbuf
  | capScratch
  | h256 (k : Fin 8)
  | h512Hi (k : Fin 8)
  | h512Lo (k : Fin 8)
  | b2hLo (k : Fin 8)
  | b2hHi (k : Fin 8)
  | b2t (q : Fin 4)
  /-- The word of a byte buffer at this window offset. -/
  | buffer (off : Nat)
  deriving DecidableEq, Repr

/-- Element `(off - base) / stride` of a register array. -/
def arrayIndex (n : Nat) [NeZero n] (off base stride : Nat) : Fin n := Fin.ofNat n ((off - base) / stride)

/-- The location at a 4-aligned offset, by the table of R23; `none` where it lists nothing (20_memory.md R64, R68). -/
def locate (c : Config) (off : Nat) : Option Loc :=
  if off = 0x00 then some .id
  else if off = 0x04 then some .ctrl
  else if off = 0x08 then some .status
  else if off = 0x0C then some .cmd
  else if off = 0x10 then some .scryptN
  else if off = 0x14 then some .scryptR
  else if off = 0x18 then some .scryptP
  else if off = 0x1C then some .errcmd
  else if off = 0x20 then some .capXbuf
  else if off = 0x24 then some .capScratch
  else if 0x100 ≤ off ∧ off < 0x120 then some (.h256 (arrayIndex 8 off 0x100 4))
  else if 0x200 ≤ off ∧ off < 0x240 then
    some (if off % 8 = 0 then .h512Hi (arrayIndex 8 off 0x200 8) else .h512Lo (arrayIndex 8 off 0x200 8))
  else if 0x300 ≤ off ∧ off < 0x340 then
    some (if off % 8 = 0 then .b2hLo (arrayIndex 8 off 0x300 8) else .b2hHi (arrayIndex 8 off 0x300 8))
  else if 0x340 ≤ off ∧ off < 0x350 then some (.b2t (arrayIndex 4 off 0x340 4))
  else if inBuffer c off then some (.buffer off)
  else none

/-- The window offset of a location (R23). -/
def Loc.offset : Loc → Nat
  | .id => 0x00
  | .ctrl => 0x04
  | .status => 0x08
  | .cmd => 0x0C
  | .scryptN => 0x10
  | .scryptR => 0x14
  | .scryptP => 0x18
  | .errcmd => 0x1C
  | .capXbuf => 0x20
  | .capScratch => 0x24
  | .h256 k => 0x100 + 4 * k
  | .h512Hi k => 0x200 + 8 * k
  | .h512Lo k => 0x204 + 8 * k
  | .b2hLo k => 0x300 + 8 * k
  | .b2hHi k => 0x304 + 8 * k
  | .b2t q => 0x340 + 4 * q
  | .buffer off => off

/-- The engine data locations of R23: readable and writable only while BUSY = 0. -/
def Loc.isData : Loc → Bool
  | .h256 _ => true
  | .h512Hi _ => true
  | .h512Lo _ => true
  | .b2hLo _ => true
  | .b2hHi _ => true
  | .b2t _ => true
  | .buffer _ => true
  | _ => false

/-! ## Lane and word accessors (45_control.md R281, R283) -/

/-- The chaining word with its high lane replaced, the low lane unchanged. -/
def setHiLane (w : DWord) (v : Word) : DWord := ofLanes v (loLane w)

/-- The chaining word with its low lane replaced, the high lane unchanged. -/
def setLoLane (w : DWord) (v : Word) : DWord := ofLanes (hiLane w) v

/-- `data_read` (R281) at an engine data location; the other locations hold no engine data. -/
def State.dataRead (s : State) : Loc → Word
  | .h256 k => s.h256[k]
  | .h512Hi k => hiLane s.h512[k]
  | .h512Lo k => loLane s.h512[k]
  | .b2hLo k => loLane s.b2h[k]
  | .b2hHi k => hiLane s.b2h[k]
  | .b2t q => counterWord s.b2t q
  | .buffer off => s.mem.readWord off
  | _ => 0

/-- `data_write` (R283) at an engine data location; the other locations hold no engine data. -/
def State.dataWrite (s : State) (v : Word) : Loc → State
  | .h256 k => { s with h256 := s.h256.set k v }
  | .h512Hi k => { s with h512 := s.h512.set k (setHiLane s.h512[k] v) }
  | .h512Lo k => { s with h512 := s.h512.set k (setLoLane s.h512[k] v) }
  | .b2hLo k => { s with b2h := s.b2h.set k (setLoLane s.b2h[k] v) }
  | .b2hHi k => { s with b2h := s.b2h.set k (setHiLane s.b2h[k] v) }
  | .b2t q => { s with b2t := setCounterWord s.b2t q v }
  | .buffer off => { s with mem := s.mem.writeWord off v }
  | _ => s

end Sys2Proof.Machine
end

