-- ==== Sys2Proof/Machine/Blake2b.lean ====
section
/-! DEFINITION. The BLAKE2b compression block and its two commands (43_blake2b.md). -/

namespace Sys2Proof.Machine

/-! ## Constants -/

/-- The BLAKE2b initial value `B2IV` (R210), the words of the SHA-512 initial value. -/
def b2iv : Vector DWord 8 :=
  #v[0x6A09E667F3BCC908, 0xBB67AE8584CAA73B, 0x3C6EF372FE94F82B, 0xA54FF53A5F1D36F1,
     0x510E527FADE682D1, 0x9B05688C2B3E6C1F, 0x1F83D9ABFB41BD6B, 0x5BE0CD19137E2179]

/-- The message-schedule ROM `SIGMA[0..11][0..15]` (R211). -/
def sigma : List (Vector (Fin 16) 16) :=
  [ #v[0, 1, 2, 3, 4, 5, 6, 7, 8, 9, 10, 11, 12, 13, 14, 15],
    #v[14, 10, 4, 8, 9, 15, 13, 6, 1, 12, 0, 2, 11, 7, 5, 3],
    #v[11, 8, 12, 0, 5, 2, 15, 13, 10, 14, 3, 6, 7, 1, 9, 4],
    #v[7, 9, 3, 1, 13, 12, 11, 14, 2, 6, 5, 10, 4, 0, 15, 8],
    #v[9, 0, 5, 7, 2, 4, 10, 15, 14, 1, 11, 12, 6, 8, 3, 13],
    #v[2, 12, 6, 10, 0, 11, 8, 3, 4, 13, 7, 5, 15, 14, 1, 9],
    #v[12, 5, 1, 15, 14, 13, 4, 10, 0, 7, 6, 3, 9, 2, 8, 11],
    #v[13, 11, 7, 14, 12, 1, 3, 9, 5, 0, 15, 4, 8, 6, 2, 10],
    #v[6, 15, 14, 9, 11, 3, 0, 8, 12, 2, 13, 7, 1, 4, 10, 5],
    #v[10, 2, 8, 4, 7, 6, 1, 5, 15, 11, 9, 14, 3, 12, 13, 0],
    #v[0, 1, 2, 3, 4, 5, 6, 7, 8, 9, 10, 11, 12, 13, 14, 15],
    #v[14, 10, 4, 8, 9, 15, 13, 6, 1, 12, 0, 2, 11, 7, 5, 3] ]

/-! ## The compression function -/

/-- The mixing function G on the lanes a, b, c, d of the working vector, with message words x and y (R214). -/
def mixG (v : Vector DWord 16) (a b c d : Fin 16) (x y : DWord) : Vector DWord 16 :=
  let v := v.set a (v[a] + v[b] + x)
  let v := v.set d (rotr (v[d] ^^^ v[a]) 32)
  let v := v.set c (v[c] + v[d])
  let v := v.set b (rotr (v[b] ^^^ v[c]) 24)
  let v := v.set a (v[a] + v[b] + y)
  let v := v.set d (rotr (v[d] ^^^ v[a]) 16)
  let v := v.set c (v[c] + v[d])
  v.set b (rotr (v[b] ^^^ v[c]) 63)

/-- One round with the row `s` of SIGMA: the four columns, then the four diagonals (R215). -/
def b2Round (m : Vector DWord 16) (v : Vector DWord 16) (s : Vector (Fin 16) 16) : Vector DWord 16 :=
  let v := mixG v 0 4 8 12 m[s[0]] m[s[1]]
  let v := mixG v 1 5 9 13 m[s[2]] m[s[3]]
  let v := mixG v 2 6 10 14 m[s[4]] m[s[5]]
  let v := mixG v 3 7 11 15 m[s[6]] m[s[7]]
  let v := mixG v 0 5 10 15 m[s[8]] m[s[9]]
  let v := mixG v 1 6 11 12 m[s[10]] m[s[11]]
  let v := mixG v 2 7 8 13 m[s[12]] m[s[13]]
  mixG v 3 4 9 14 m[s[14]] m[s[15]]

/-- The sixteen little-endian message words of a 128-byte block (R216). -/
def b2Words (M : List Byte) : Vector DWord 16 := Vector.ofFn fun i => le64 M (8 * i)

/-- The working vector before the rounds (R216): the chaining value, then B2IV with the counter `t` in words 12 and 13 and word 14
complemented for the last block (R220). -/
def b2Start (h : Vector DWord 8) (t : BitVec 128) (f : Bool) : Vector DWord 16 :=
  let v : Vector DWord 16 := h ++ b2iv
  let v := v.set 12 (v[12] ^^^ t.extractLsb' 0 64)
  let v := v.set 13 (v[13] ^^^ t.extractLsb' 64 64)
  if f then v.set 14 (~~~v[14]) else v

/-- `blake2b_compress(h, M, t, f)` (R216). -/
def blake2bCompress (h : Vector DWord 8) (M : List Byte) (t : BitVec 128) (f : Bool) : Vector DWord 8 :=
  let v := sigma.foldl (b2Round (b2Words M)) (b2Start h t f)
  #v[h[0] ^^^ v[0] ^^^ v[8], h[1] ^^^ v[1] ^^^ v[9], h[2] ^^^ v[2] ^^^ v[10], h[3] ^^^ v[3] ^^^ v[11],
     h[4] ^^^ v[4] ^^^ v[12], h[5] ^^^ v[5] ^^^ v[13], h[6] ^^^ v[6] ^^^ v[14], h[7] ^^^ v[7] ^^^ v[15]]

/-- The folded first word of the parameter block, `0x01010000 ^ (KK << 8) ^ NN` (R212, R217). -/
def paramWord (nn kk : BitVec 8) : DWord := 0x01010000 ^^^ (kk.setWidth 64 <<< 8) ^^^ nn.setWidth 64

/-- The chaining value BLAKE2B_INIT loads (R212). -/
def b2hInit (nn kk : BitVec 8) : Vector DWord 8 := b2iv.set 0 (b2iv[0] ^^^ paramWord nn kk)

/-! ## Commands -/

/-- The validation of BLAKE2B_INIT on its operands as numbers, in its order (R212, 60_exceptions.md R341, R343). -/
def blake2bInitVerdict (nn kk : Nat) : Option CmdError :=
  if nn = 0 ∨ nn > 64 then some .badOutlen
  else if kk > 64 then some .badKeylen
  else none

/-- The validation of BLAKE2B_INIT (R212). -/
def checkBlake2bInit (nn kk : BitVec 8) : Option CmdError := blake2bInitVerdict nn.toNat kk.toNat

/-- The effect of BLAKE2B_INIT (R212). -/
def blake2bInitEffect (nn kk : BitVec 8) (s : State) : State :=
  { s with b2h := b2hInit nn kk, b2t := 0, b2fin := false }

/-- BLAKE2B_INIT (R212). -/
def execBlake2bInit (nn kk : BitVec 8) (s : State) : Result :=
  runCommand (.blake2bInit nn kk) (checkBlake2bInit nn kk) (blake2bInitEffect nn kk) s

/-- The validation of BLAKE2B_COMPRESS (R213). -/
def checkBlake2bCompress (len : BitVec 8) : Option CmdError :=
  if len.toNat > 128 then some .badBlocklen else none

/-- The effect of BLAKE2B_COMPRESS (R213): nothing once finalized (R222); otherwise the counter is advanced first (R221), the
compression takes its new value, and a final block sets B2FIN. -/
def blake2bCompressEffect (len : BitVec 8) (f : Bool) (s : State) : State :=
  if s.b2fin then s
  else
    let t := s.b2t + len.setWidth 128
    { s with b2t := t, b2h := blake2bCompress s.b2h s.b2m t f, b2fin := f }

/-- BLAKE2B_COMPRESS (R213). -/
def execBlake2bCompress (len : BitVec 8) (f : Bool) (s : State) : Result :=
  runCommand (.blake2bCompress len f) (checkBlake2bCompress len) (blake2bCompressEffect len f) s

end Sys2Proof.Machine
end

