-- ==== Sys2Proof/Machine/Control.lean ====
section
/-! DEFINITION. The NOP command (45_control.md R280). -/

namespace Sys2Proof.Machine

/-- NOP (R280): no engine state changes; only the common completion. -/
def execNop (s : State) : Result := runCommand .nop none id s

end Sys2Proof.Machine
end

