-- ==== Sys2Proof/Machine/Scrypt.lean ====
section
/-! DEFINITION. The Salsa20/8 core, BlockMix, the ROMix engine over the scratch controller, and their three commands
(44_salsa_scrypt.md). -/

namespace Sys2Proof.Machine

/-! ## The Salsa20/8 core -/

/-- The quarter-round on the word indices a, b, c, d (R241). -/
def quarterRound (x : Vector Word 16) (a b c d : Fin 16) : Vector Word 16 :=
  let x := x.set b (x[b] ^^^ rotl (x[a] + x[d]) 7)
  let x := x.set c (x[c] ^^^ rotl (x[b] + x[a]) 9)
  let x := x.set d (x[d] ^^^ rotl (x[c] + x[b]) 13)
  x.set a (x[a] ^^^ rotl (x[d] + x[c]) 18)

/-- The column round (R242). -/
def columnRound (x : Vector Word 16) : Vector Word 16 :=
  let x := quarterRound x 0 4 8 12
  let x := quarterRound x 5 9 13 1
  let x := quarterRound x 10 14 2 6
  quarterRound x 15 3 7 11

/-- The row round (R242). -/
def rowRound (x : Vector Word 16) : Vector Word 16 :=
  let x := quarterRound x 0 1 2 3
  let x := quarterRound x 5 6 7 4
  let x := quarterRound x 10 11 8 9
  quarterRound x 15 12 13 14

/-- The double-round, column round then row round (R242). -/
def doubleRound (x : Vector Word 16) : Vector Word 16 := rowRound (columnRound x)

/-- The sixteen little-endian words of a 64-byte string (R240). -/
def salsaWords (B : List Byte) : Vector Word 16 := Vector.ofFn fun i => le32 B (4 * i)

/-- `salsa20_8(B)` (R243): four double-rounds, then the feed-forward addition, written back little-endian. -/
def salsa20_8 (B : List Byte) : List Byte :=
  let z := salsaWords B
  let x := doubleRound (doubleRound (doubleRound (doubleRound z)))
  (Vector.zipWith (· + ·) x z).toList.flatMap le32bytes

/-! ## BlockMix -/

/-- The 64-byte chunk `B_i` (R245). -/
def chunk (B : List Byte) (i : Nat) : List Byte := (B.drop (64 * i)).take 64

/-- The mixed chunks `Y_0 … Y_(n-1)` of the chunks given, each XORed into the running `T` (R245). -/
def mixChunks (T : List Byte) : List (List Byte) → List (List Byte)
  | [] => []
  | B :: Bs => let Y := salsa20_8 (xorBytes T B); Y :: mixChunks Y Bs

/-- The even-indexed elements of a list. -/
def evens {α : Type} : List α → List α
  | [] => []
  | [x] => [x]
  | x :: _ :: xs => x :: evens xs

/-- The odd-indexed elements of a list. -/
def odds {α : Type} : List α → List α
  | [] => []
  | [_] => []
  | _ :: y :: xs => y :: odds xs

/-- `blockmix_r(B)` on 128·r bytes (R245): T starts as the last chunk; the even-indexed outputs come first, then the
odd-indexed. -/
def blockmix (r : Nat) (B : List Byte) : List Byte :=
  let Y := mixChunks (chunk B (2 * r - 1)) ((List.range (2 * r)).map (chunk B))
  (evens Y ++ odds Y).flatten

/-! ## ROMix -/

/-- Integerify: `LE32(X, 128·r − 64) & (N − 1)` (R248). -/
def integerify (X : List Byte) (N r : Nat) : Nat := (le32 X (128 * r - 64)).toNat &&& (N - 1)

/-- The fill phase of ROMix for the entries i, i+1, …, `n` of them (R249): V[i] <- X; X <- blockmix_r(X). -/
def romixFill (r : Nat) : (n i : Nat) → (X : List Byte) → (V : Memory) → List Byte × Memory
  | 0, _, X, V => (X, V)
  | n + 1, i, X, V => romixFill r n (i + 1) (blockmix r X) (vWrite V r i X)

/-- `n` iterations of the mix phase of ROMix for cost `N` (R249): X <- blockmix_r(X ^ V[j]). -/
def romixMix (N r : Nat) (V : Memory) : (n : Nat) → (X : List Byte) → List Byte
  | 0, X => X
  | n + 1, X => romixMix N r V n (blockmix r (xorBytes X (vRead V r (integerify X N r))))

/-- `romix(B, N, r)` on one block, through the scratch table (R249, R252): the mixed block and the table it leaves. -/
def romix (N r : Nat) (B : List Byte) (V : Memory) : List Byte × Memory :=
  let filled := romixFill r N 0 B V
  (romixMix N r filled.2 N filled.1, filled.2)

/-- Block `k` of a ROMIX, in place in XBUF at 128·r·k (R250, 45_control.md R295). -/
def romixBlock (N r k : Nat) (s : State) : State :=
  let out := romix N r (s.xbuf (128 * r * k) (128 * r)) s.scratch
  { s.setXbuf (128 * r * k) out.1 with scratch := out.2 }

/-- ROMix on the p blocks in order (R250). -/
def romixBlocks (N r p : Nat) (s : State) : State :=
  (List.range p).foldl (fun s k => romixBlock N r k s) s

/-! ## Commands -/

/-- SALSA20_8 (R244): XBUF[0..64) <- salsa20_8(XBUF[0..64)). -/
def execSalsa20_8 (s : State) : Result :=
  runCommand .salsa20_8 none (fun s => s.setXbuf 0 (salsa20_8 (s.xbuf 0 64))) s

/-- The validation of BLOCKMIX, in its order (R247, 60_exceptions.md R341). -/
def checkBlockmix (s : State) : Option CmdError :=
  if s.blockR = 0 then some .zeroParam
  else if 128 * s.blockR > s.cfg.xbufBytes then some .capacity
  else none

/-- BLOCKMIX (R247): XBUF[0..128r) <- blockmix_r(XBUF[0..128r)). -/
def execBlockmix (s : State) : Result :=
  runCommand .blockmix (checkBlockmix s)
    (fun s => s.setXbuf 0 (blockmix s.blockR (s.xbuf 0 (128 * s.blockR)))) s

/-- The validation of ROMIX for the parameters `c` and the operands N, r, p, in its order (R256, R257, 60_exceptions.md R341, R343);
the products are exact. -/
def romixVerdict (c : Config) (N r p : Nat) : Option CmdError :=
  if r * p ≥ 2 ^ 30 then some .tooLarge
  else if N < 2 ∨ N &&& (N - 1) ≠ 0 then some .invalidCost
  else if r = 0 ∨ p = 0 then some .zeroParam
  else if 128 * r * p > c.xbufBytes ∨ 128 * r * N > c.scratchBytes then some .capacity
  else none

/-- The validation of ROMIX (R256, R257). -/
def checkRomix (s : State) : Option CmdError := romixVerdict s.cfg s.costN s.blockR s.parP

/-- ROMIX (R255): ROMix in place on the p blocks of XBUF, through the scratch table. -/
def execRomix (s : State) : Result :=
  runCommand .romix (checkRomix s) (fun s => romixBlocks s.costN s.blockR s.parP s) s

end Sys2Proof.Machine
end

