-- ==== Sys2Proof/Machine/Sha2.lean ====
section
/-! DEFINITION. What the two SHA-2 engines share: the functions Ch and Maj, the message schedule, the round and the feed-forward
(41_sha256.md R155 to R158; 42_sha512.md R185 to R188: "identical structure over 64-bit words and 80 rounds"). -/

namespace Sys2Proof.Machine

/-- The working variables a..h of a compression, local to one completion (10_state.md R20). -/
structure Working (w : Nat) where
  a : BitVec w
  b : BitVec w
  c : BitVec w
  d : BitVec w
  e : BitVec w
  f : BitVec w
  g : BitVec w
  h : BitVec w
  deriving DecidableEq, Repr

/-- `Ch` (R155, R185). -/
def ch {w : Nat} (x y z : BitVec w) : BitVec w := (x &&& y) ^^^ (~~~x &&& z)

/-- `Maj` (R155, R185). -/
def maj {w : Nat} (x y z : BitVec w) : BitVec w := (x &&& y) ^^^ (x &&& z) ^^^ (y &&& z)

/-- The next word of the message schedule, W[t] for t = len(W) (R156, R186), from the words before it. -/
def scheduleNext {w : Nat} (sig0 sig1 : BitVec w → BitVec w) (W : List (BitVec w)) : BitVec w :=
  let t := W.length
  sig1 (W.getD (t - 2) 0) + W.getD (t - 7) 0 + sig0 (W.getD (t - 15) 0) + W.getD (t - 16) 0

/-- The message schedule extended by `n` words (R156, R186). -/
def extend {w : Nat} (sig0 sig1 : BitVec w → BitVec w) : Nat → List (BitVec w) → List (BitVec w)
  | 0, W => W
  | n + 1, W => extend sig0 sig1 n (W ++ [scheduleNext sig0 sig1 W])

/-- One round (R157, R187), from the values before it, with the round constant `k` and the message word `wt`. -/
def sha2Round {w : Nat} (sum0 sum1 : BitVec w → BitVec w) (v : Working w) (k wt : BitVec w) : Working w :=
  let t1 := v.h + sum1 v.e + ch v.e v.f v.g + k + wt
  let t2 := sum0 v.a + maj v.a v.b v.c
  { a := t1 + t2, b := v.a, c := v.b, d := v.c, e := v.d + t1, f := v.e, g := v.f, h := v.g }

/-- The working variables loaded from the chaining value (R158, R188). -/
def Working.load {w : Nat} (H : Vector (BitVec w) 8) : Working w :=
  { a := H[0], b := H[1], c := H[2], d := H[3], e := H[4], f := H[5], g := H[6], h := H[7] }

/-- The additive feed-forward into the chaining value (R158, R188). -/
def Working.addTo {w : Nat} (v : Working w) (H : Vector (BitVec w) 8) : Vector (BitVec w) 8 :=
  #v[H[0] + v.a, H[1] + v.b, H[2] + v.c, H[3] + v.d, H[4] + v.e, H[5] + v.f, H[6] + v.g, H[7] + v.h]

/-- The rounds t = 0, 1, … over the round constants and the message schedule, in step (R158, R188). -/
def sha2Rounds {w : Nat} (sum0 sum1 : BitVec w → BitVec w) (ks ws : List (BitVec w)) (v : Working w) : Working w :=
  (ks.zip ws).foldl (fun v kw => sha2Round sum0 sum1 v kw.1 kw.2) v

end Sys2Proof.Machine
end

