-- ==== Sys2Proof/Machine/Sha256.lean ====
section
/-! DEFINITION. The SHA-256 compression unit and its three commands (41_sha256.md). -/

namespace Sys2Proof.Machine

/-! ## Constants -/

/-- The round constants `K256[0..63]` (R150). -/
def k256 : List Word :=
  [0x428A2F98, 0x71374491, 0xB5C0FBCF, 0xE9B5DBA5, 0x3956C25B, 0x59F111F1, 0x923F82A4, 0xAB1C5ED5,
   0xD807AA98, 0x12835B01, 0x243185BE, 0x550C7DC3, 0x72BE5D74, 0x80DEB1FE, 0x9BDC06A7, 0xC19BF174,
   0xE49B69C1, 0xEFBE4786, 0x0FC19DC6, 0x240CA1CC, 0x2DE92C6F, 0x4A7484AA, 0x5CB0A9DC, 0x76F988DA,
   0x983E5152, 0xA831C66D, 0xB00327C8, 0xBF597FC7, 0xC6E00BF3, 0xD5A79147, 0x06CA6351, 0x14292967] ++
  [0x27B70A85, 0x2E1B2138, 0x4D2C6DFC, 0x53380D13, 0x650A7354, 0x766A0ABB, 0x81C2C92E, 0x92722C85,
   0xA2BFE8A1, 0xA81A664B, 0xC24B8B70, 0xC76C51A3, 0xD192E819, 0xD6990624, 0xF40E3585, 0x106AA070,
   0x19A4C116, 0x1E376C08, 0x2748774C, 0x34B0BCB5, 0x391C0CB3, 0x4ED8AA4A, 0x5B9CCA4F, 0x682E6FF3,
   0x748F82EE, 0x78A5636F, 0x84C87814, 0x8CC70208, 0x90BEFFFA, 0xA4506CEB, 0xBEF9A3F7, 0xC67178F2]

/-- The SHA-256 initial value `IV256` (R151). -/
def iv256 : Vector Word 8 :=
  #v[0x6A09E667, 0xBB67AE85, 0x3C6EF372, 0xA54FF53A,
     0x510E527F, 0x9B05688C, 0x1F83D9AB, 0x5BE0CD19]

/-! ## The compression function -/

/-- `Σ0` (R155). -/
def bigSigma0_256 (x : Word) : Word := rotr x 2 ^^^ rotr x 13 ^^^ rotr x 22

/-- `Σ1` (R155). -/
def bigSigma1_256 (x : Word) : Word := rotr x 6 ^^^ rotr x 11 ^^^ rotr x 25

/-- `σ0` (R155). -/
def smallSigma0_256 (x : Word) : Word := rotr x 7 ^^^ rotr x 18 ^^^ (x >>> 3)

/-- `σ1` (R155). -/
def smallSigma1_256 (x : Word) : Word := rotr x 17 ^^^ rotr x 19 ^^^ (x >>> 10)

/-- The sixteen big-endian message words of a 64-byte block (R156, 20_memory.md R62). -/
def words256 (M : List Byte) : List Word := (List.range 16).map fun t => be32 M (4 * t)

/-- The message schedule `W[0..63]` (R156). -/
def schedule256 (M : List Byte) : List Word := extend smallSigma0_256 smallSigma1_256 48 (words256 M)

/-- `sha256_compress(H, M)` (R158). -/
def sha256Compress (H : Vector Word 8) (M : List Byte) : Vector Word 8 :=
  (sha2Rounds bigSigma0_256 bigSigma1_256 k256 (schedule256 M) (Working.load H)).addTo H

/-! ## Commands -/

/-- SHA256_INIT (R152): H256 <- IV256. -/
def execSha256Init (s : State) : Result :=
  runCommand .sha256Init none (fun s => { s with h256 := iv256 }) s

/-- SHA256_COMPRESS (R153): H256 <- sha256_compress(H256, M256). -/
def execSha256Compress (s : State) : Result :=
  runCommand .sha256Compress none (fun s => { s with h256 := sha256Compress s.h256 s.m256 }) s

/-- SHA256_ZERO (R154): H256 <- 0. -/
def execSha256Zero (s : State) : Result :=
  runCommand .sha256Zero none (fun s => { s with h256 := Vector.replicate 8 0 }) s

end Sys2Proof.Machine
end

