-- ==== Sys2Proof/Machine/Dispatch.lean ====
section
/-! DEFINITION. The meaning of every command: the case distinction of 60_exceptions.md R345. -/

namespace Sys2Proof.Machine

def exec (i : Instr) (s : State) : Host.Outcome State Fault Refusal :=
  match i with
  | .nop => Sys2Proof.Machine.execNop s
  | .sha256Init => Sys2Proof.Machine.execSha256Init s
  | .sha256Compress => Sys2Proof.Machine.execSha256Compress s
  | .sha256Zero => Sys2Proof.Machine.execSha256Zero s
  | .sha512Init => Sys2Proof.Machine.execSha512Init s
  | .sha512Compress => Sys2Proof.Machine.execSha512Compress s
  | .sha512Zero => Sys2Proof.Machine.execSha512Zero s
  | .blake2bInit nn kk => Sys2Proof.Machine.execBlake2bInit nn kk s
  | .blake2bCompress len f => Sys2Proof.Machine.execBlake2bCompress len f s
  | .salsa20_8 => Sys2Proof.Machine.execSalsa20_8 s
  | .blockmix => Sys2Proof.Machine.execBlockmix s
  | .romix => Sys2Proof.Machine.execRomix s

end Sys2Proof.Machine
end

