-- ==== Sys2Proof/Machine/Flags.lean ====
section
/-! DEFINITION. The block's flags: the STATUS and CTRL words, their writes, and the interrupt line (10_state.md R22, R31, R32;
45_control.md R288, R289; 60_exceptions.md R350). No command produces an arithmetic flag (R22). -/

namespace Sys2Proof.Machine

/-- A flag as a bit at position `n` of a register word. -/
def flagAt (b : Bool) (n : Nat) : Word := (BitVec.ofBool b).setWidth 32 <<< n

/-- STATUS as the host reads it (R32, 45_control.md R281); the reserved bits read 0. -/
def State.statusWord (s : State) : Word :=
  flagAt s.busy 0 ||| flagAt s.done 1 ||| flagAt s.err 2 ||| flagAt s.busywr 3 ||| flagAt s.b2fin 4 |||
    (s.errcode.setWidth 32 <<< 8)

/-- CTRL as the host reads it (R31): IE in bit 0, every other bit 0. -/
def State.ctrlWord (s : State) : Word := flagAt s.ie 0

/-- `STATUS_write(v)` (45_control.md R288): DONE, ERR and BUSYWR are cleared by writing 1; every other bit of `v` is ignored. -/
def State.statusWrite (s : State) (v : Word) : State :=
  let s := if v.getLsbD 1 then s.clearDone else s
  let s := if v.getLsbD 2 then s.clearErr else s
  if v.getLsbD 3 then s.clearBusywr else s

/-- `CTRL_write(v)` (45_control.md R289): bit 1 performs the soft reset of 70_reset_and_hazards.md R381, and the IE bit written
with it is discarded; otherwise IE takes bit 0. -/
def State.ctrlWrite (s : State) (v : Word) : State :=
  if v.getLsbD 1 then s.resetBlock else { s with ie := v.getLsbD 0 }

/-- The interrupt output, a level (60_exceptions.md R350). -/
def State.irq (s : State) : Bool := s.ie && s.done

end Sys2Proof.Machine
end

