-- ==== Sys2Proof/Machine/HostPort.lean ====
section
/-! DEFINITION. The host port: validation and issue of a command word, and every read and write of the window (45_control.md R281
to R289; 60_exceptions.md R341). -/

namespace Sys2Proof.Machine

/-! ## Validation and issue -/

/-- The validation of a decoded command (60_exceptions.md R341); `none` accepts it. -/
def validateInstr (s : State) : Instr → Option CmdError
  | .nop => none
  | .sha256Init => none
  | .sha256Compress => none
  | .sha256Zero => none
  | .sha512Init => none
  | .sha512Compress => none
  | .sha512Zero => none
  | .blake2bInit nn kk => checkBlake2bInit nn kk
  | .blake2bCompress len _ => checkBlake2bCompress len
  | .salsa20_8 => none
  | .blockmix => checkBlockmix s
  | .romix => checkRomix s

/-- `validate(w)` (60_exceptions.md R341); `none` accepts the word. -/
def validate (s : State) (w : Word) : Option CmdError :=
  match decodeWord w with
  | .error _ => some .illegalCmd
  | .ok i => validateInstr s i

/-- `issue(w)` (45_control.md R284). -/
def issue (s : State) (w : Word) : State :=
  match validate s w with
  | some e => s.reject e w
  | none => s.accept w

/-! ## Reads (R281) -/

/-- The value of a mapped location (R281): engine data reads 0 while BUSY = 1 (R285). -/
def readLoc (s : State) : Loc → Word
  | .id => 0xBC250007
  | .ctrl => s.ctrlWord
  | .status => s.statusWord
  | .cmd => 0
  | .scryptN => s.scryptN
  | .scryptR => s.scryptR
  | .scryptP => s.scryptP
  | .errcmd => s.errcmd
  | .capXbuf => BitVec.ofNat 32 s.cfg.xbufBytes
  | .capScratch => BitVec.ofNat 32 (s.cfg.scratchBytes / 1024)
  | l => if s.busy then 0 else s.dataRead l

/-- The location an access reaches (R281, R283, 20_memory.md R64, R65); `none` is a BusError (R282). -/
def decodeAccess (c : Config) (off size : Nat) : Option Loc :=
  if size ≠ 4 ∨ off % 4 ≠ 0 ∨ off ≥ windowBytes then none else locate c off

/-- `host_read(off, size)` (R281). -/
def hostRead (s : State) (off size : Nat) : Reply :=
  match decodeAccess s.cfg off size with
  | none => .busError off
  | some l => .value (readLoc s l)

/-! ## Writes (R283) -/

/-- A write to a location that is writable only while BUSY = 0, made while BUSY = 0 (R283). -/
def writeIdle (s : State) (v : Word) : Loc → State
  | .cmd => issue s v
  | .scryptN => { s with scryptN := v }
  | .scryptR => { s with scryptR := v }
  | .scryptP => { s with scryptP := v }
  | l => s.dataWrite v l

/-- A write to a mapped location (R283): CTRL and STATUS act at any time (R288, R289), read-only registers ignore it (R287), and
the rest is dropped with BUSYWR set while BUSY = 1 (R286). -/
def writeLoc (s : State) (v : Word) : Loc → State
  | .ctrl => s.ctrlWrite v
  | .status => s.statusWrite v
  | .id => s
  | .errcmd => s
  | .capXbuf => s
  | .capScratch => s
  | l => if s.busy then { s with busywr := true } else writeIdle s v l

/-- `host_write(off, size, v)` (R283): the state after it and the reply. -/
def hostWrite (s : State) (off size : Nat) (v : Word) : State × Reply :=
  match decodeAccess s.cfg off size with
  | none => (s, .busError off)
  | some l => (writeLoc s v l, .written)

/-- One host step (20_memory.md R70): the access, and its reply on the bus (R282). -/
def hostAccess (s : State) : Access → State
  | .read off size => s.reply (hostRead s off size)
  | .write off size v => (hostWrite s off size v).1.reply (hostWrite s off size v).2

end Sys2Proof.Machine
end

