-- ==== Sys2Proof/Machine/Sequencer.lean ====
section
/-! DEFINITION. The sequencer: which agent steps next, and what the unit has to run (45_control.md R290, R291; 60_exceptions.md
R344, R345; 70_reset_and_hazards.md R380). `Step` calls `turn` and dispatches the command it names. -/

namespace Sys2Proof.Machine

/-- What the next step is. -/
inductive Turn where
  /-- The step ends in this state: a host access, a reset, or a turn in which the unit has nothing to do. -/
  | over (s : State)
  /-- The unit runs this command in this state (R345). -/
  | run (i : Instr) (s : State)
  /-- The state is none the spec gives the block. -/
  | stuck (f : Fault)
  deriving DecidableEq, Repr

/-- The unit's turn (R345), enabled only while BUSY = 1; idle, the unit takes no step and the state is held (60_exceptions.md R358).
PENDING always decodes (R345); in a state where it does not, the word is rejected as its issue would have been (log entry 2). -/
def unitTurn (s : State) : Turn :=
  if s.busy then
    match s.pending with
    | none => .stuck .busyWithoutPending
    | some w =>
      match decodeWord w with
      | .ok i => .run i s
      | .error _ => .over (s.release.reject .illegalCmd w)
  else .over s

/-- The next turn: the oldest event of the schedule. When nothing more is to come, the unit has its turns, so that a pending
command completes (R291). -/
def turn (s : State) : Turn :=
  match s.inbox with
  | [] => unitTurn s
  | .unit :: es => unitTurn { s with inbox := es }
  | .host a :: es => .over (hostAccess { s with inbox := es } a)
  | .reset :: es => .over (State.resetBlock { s with inbox := es })

/-- The state in which the command word `w` has been issued and the unit has the next turn: what the unit fetches its command
from is PENDING (R345; log entry 3). -/
def State.withPending (s : State) (w : Word) : State := { s.accept w with inbox := .unit :: s.inbox }

end Sys2Proof.Machine
end

