-- ==== Sys2Proof/Machine/Step.lean ====
section
/-! DEFINITION. One step of the machine. -/

namespace Sys2Proof.Machine

/-- One step (45_control.md R291): one host access, one reset, or one turn of the unit, which runs the pending command whole. -/
def step (s : State) : Host.Outcome State Fault Refusal :=
  match turn s with
  | .over t => .next t
  | .run i t => exec i t
  | .stuck f => .fault f

/-- `s` with the command word `w` issued, so that the next step is the unit's and runs it (log entry 3). A command word has 32
bits (30_encoding.md R97), so `nbits` is 32. -/
def State.withFetchWord (s : State) (_nbits w : Nat) : State := s.withPending (BitVec.ofNat 32 w)

end Sys2Proof.Machine
end

