-- ==== Sys2Proof/Machine/Driver.lean ====
section
/-! DEFINITION. The host's side (46_host_protocol.md; 30_encoding.md R98, R99) as pure functions: the events a driver emits, what it
keeps in host memory, and the end-to-end results the source is stated for. `DriverCalls` performs the same protocol on the machine,
reading STATUS as it goes. Nothing here is performed by the block (00_scope.md R6); `step` does not use this file. -/

namespace Sys2Proof.Machine.Driver

/-- Why a driver's call fails. -/
inductive Failure where
  /-- A command error, by its code (60_exceptions.md R340): the block's ERRCODE, or the driver's own check with the source's error
  (R318, R327, R328). -/
  | command (code : BitVec 8)
  /-- An argument of the wrong size (R325). -/
  | contract
  /-- The bus rejected a read (45_control.md R282). -/
  | busError (off : Nat)
  /-- The machine stopped, which no state a run reaches does (log entry 9). -/
  | stopped
  deriving DecidableEq, Repr

/-- The failure of a command error. -/
def failureOf (e : CmdError) : Failure := .command e.code

/-! ## Pseudo-operations (30_encoding.md R99) -/

/-- `wr OFF, VAL`. -/
def wr (off : Nat) (v : Word) : Event := .host (.write off 4 v)

/-- `rd OFF`. -/
def rd (off : Nat) : Event := .host (.read off 4)

/-- `cmd <mnemonic>`: a write of the command's word to CMD. -/
def cmd (i : Instr) : Event := wr 0x0C (encode i)

/-- `wait`: reads of STATUS until BUSY = 0. `latency` of them find BUSY = 1; the unit's turn comes before the last one (R392). -/
def wait (latency : Nat) : List Event := List.replicate latency (rd 0x08) ++ [.unit, rd 0x08]

/-- `run <mnemonic>`. -/
def run (latency : Nat) (i : Instr) : List Event := cmd i :: wait latency

/-- `ack`: clear DONE, ERR and BUSYWR. -/
def ack : Event := wr 0x08 0x0000000E

/-- `ldbuf BASE, bytes`: the `n` words of a buffer, little-endian. -/
def ldbuf (base n : Nat) (bs : List Byte) : List Event :=
  (List.range n).map fun k => wr (base + 4 * k) (le32 bs (4 * k))

/-- `rdbuf BASE, n`. -/
def rdbuf (base n : Nat) : List Event := (List.range n).map fun k => rd (base + 4 * k)

/-! ## SHA-2: buffering and padding (R310 to R316) -/

/-- What the SHA-2 driver knows of an engine: block, length-field and digest sizes in bytes, the offsets of its buffer and of its
chaining value, and its three commands. -/
structure Sha2Engine where
  blockBytes  : Nat
  lenBytes    : Nat
  digestBytes : Nat
  bufBase     : Nat
  digestBase  : Nat
  init        : Instr
  compress    : Instr
  zero        : Instr
  deriving DecidableEq, Repr

/-- SHA-256 (R311, R313, R316). -/
def sha256Engine : Sha2Engine := ⟨64, 8, 32, m256Base, 0x100, .sha256Init, .sha256Compress, .sha256Zero⟩

/-- SHA-512 (R311, R313, R316). -/
def sha512Engine : Sha2Engine := ⟨128, 16, 64, m512Base, 0x200, .sha512Init, .sha512Compress, .sha512Zero⟩

/-- The driver's half of a hash context (R310). -/
structure HashCtx where
  buf   : List Byte
  count : Nat
  deriving DecidableEq, Repr

/-- The full blocks at the front of a byte string and what is left of it; `fuel` bounds the number of blocks. -/
def takeBlocks (bs : Nat) : (fuel : Nat) → List Byte → List (List Byte) × List Byte
  | 0, buf => ([], buf)
  | fuel + 1, buf =>
    if bs ≤ buf.length then
      let rest := takeBlocks bs fuel (buf.drop bs)
      (buf.take bs :: rest.1, rest.2)
    else ([], buf)

/-- `update(s)` (R311): the new context and the blocks to compress, in order. -/
def sha2Update (d : Sha2Engine) (c : HashCtx) (s : List Byte) : HashCtx × List (List Byte) :=
  let all := c.buf ++ s
  let out := takeBlocks d.blockBytes all.length all
  ({ buf := out.2, count := c.count + s.length }, out.1)

/-- The padding of a message of `count` bytes (R313). -/
def sha2Padding (d : Sha2Engine) (count : Nat) : List Byte :=
  let z := (2 * d.blockBytes - 1 - d.lenBytes - count % d.blockBytes) % d.blockBytes
  0x80 :: List.replicate z 0 ++ List.replicate (d.lenBytes - 8) 0 ++ be64bytes (BitVec.ofNat 64 (8 * count))

/-- The host's accesses that compress one block (R311): load the buffer, issue COMPRESS, wait. -/
def sha2Block (d : Sha2Engine) (latency : Nat) (block : List Byte) : List Event :=
  ldbuf d.bufBase (d.blockBytes / 4) block ++ run latency d.compress

/-- `final` (R313, R315): the padding is absorbed as a last `update`, and the buffer is emptied. The count is what that update left,
so a second `final` pads with a stale count (R317, log entry 10). -/
def sha2Final (d : Sha2Engine) (c : HashCtx) : HashCtx × List (List Byte) :=
  let u := sha2Update d c (sha2Padding d c.count)
  ({ u.1 with buf := [] }, u.2)

/-- The blocks of a whole message, padding included (R311 to R313). -/
def sha2Blocks (d : Sha2Engine) (msg : List Byte) : List (List Byte) :=
  let u := sha2Update d ⟨[], 0⟩ msg
  u.2 ++ (sha2Final d u.1).2

/-- The SHA-256 digest of a chaining value, 32 bytes (R316). -/
def sha256Serialize (H : Vector Word 8) : List Byte := H.toList.flatMap be32bytes

/-- The SHA-512 digest of a chaining value, 64 bytes (R316). -/
def sha512Serialize (H : Vector DWord 8) : List Byte := H.toList.flatMap be64bytes

/-- SHA-256 of a message. -/
def sha256Digest (msg : List Byte) : List Byte :=
  sha256Serialize ((sha2Blocks sha256Engine msg).foldl sha256Compress iv256)

/-- SHA-512 of a message. -/
def sha512Digest (msg : List Byte) : List Byte :=
  sha512Serialize ((sha2Blocks sha512Engine msg).foldl sha512Compress iv512)

/-- `root(a, b)` over a digest function of `size` bytes: both arguments must have that size (R325). -/
def rootOf (size : Nat) (digest : List Byte → Except Failure (List Byte)) (a b : List Byte) : Except Failure (List Byte) :=
  if a.length = size ∧ b.length = size then digest (a ++ b) else .error .contract

/-- `root(a, b)` for SHA-256 (R325). -/
def sha256Root (a b : List Byte) : Except Failure (List Byte) := rootOf 32 (fun m => .ok (sha256Digest m)) a b

/-- `root(a, b)` for SHA-512 (R325). -/
def sha512Root (a b : List Byte) : Except Failure (List Byte) := rootOf 64 (fun m => .ok (sha512Digest m)) a b

/-! ## BLAKE2b: lazy buffering, key block, truncation (R318 to R323) -/

/-- The driver's half of a BLAKE2b context (R310), with the digest that `final` stores (R321); empty until then. -/
structure B2Ctx where
  buf    : List Byte
  count  : Nat
  nn     : Nat
  fin    : Bool
  digest : List Byte
  deriving DecidableEq, Repr

/-- One BLAKE2b compression the driver asks for: the block, LEN and F. -/
structure B2Call where
  block : List Byte
  len   : Nat
  f     : Bool
  deriving DecidableEq, Repr

/-- `init(nn, key)` (R318, R320): the context the driver starts with when the block accepts `b2.init nn, kk`. -/
def b2InitCtx (nn : Nat) (key : List Byte) : B2Ctx :=
  if key.isEmpty then ⟨[], 0, nn, false, []⟩
  else ⟨key ++ List.replicate (128 - key.length) 0, 128, nn, false, []⟩

/-- `update` with one byte (R319): a full buffer is compressed only when this byte arrives. -/
def b2UpdateByte (c : B2Ctx) (b : Byte) : B2Ctx × List B2Call :=
  if c.buf.length = 128 then ({ c with buf := [b], count := c.count + 1 }, [⟨c.buf, 128, false⟩])
  else ({ c with buf := c.buf ++ [b], count := c.count + 1 }, [])

/-- `update(s)` (R319): a no-op once finalized. -/
def b2Update (c : B2Ctx) : List Byte → B2Ctx × List B2Call
  | [] => (c, [])
  | b :: s =>
    if c.fin then (c, [])
    else
      let one := b2UpdateByte c b
      let rest := b2Update one.1 s
      (rest.1, one.2 ++ rest.2)

/-- The compression `final` asks for: the zero-padded last block, with LEN the buffered byte count and F = 1 (R321). -/
def b2LastCall (c : B2Ctx) : B2Call := ⟨c.buf ++ List.replicate (128 - c.buf.length) 0, c.buf.length, true⟩

/-- The compressions of a whole message (R318 to R321). -/
def b2Calls (nn : Nat) (key msg : List Byte) : List B2Call :=
  let u := b2Update (b2InitCtx nn key) msg
  u.2 ++ [b2LastCall u.1]

/-- The digest of a chaining value: its first `nn` bytes, little-endian per word (R322). -/
def b2Serialize (nn : Nat) (H : Vector DWord 8) : List Byte := (H.toList.flatMap le64bytes).take nn

/-- What one compression does to the chaining value and the counter (43_blake2b.md R213). -/
def b2Apply (s : Vector DWord 8 × BitVec 128) (k : B2Call) : Vector DWord 8 × BitVec 128 :=
  let t := s.2 + BitVec.ofNat 128 k.len
  (blake2bCompress s.1 k.block t k.f, t)

/-- The context after a `final` that left the chaining value `H`: finalized, its digest stored (R321, R322). -/
def B2Ctx.finish (c : B2Ctx) (H : Vector DWord 8) : B2Ctx := { c with fin := true, digest := b2Serialize c.nn H }

/-- `final` (R321) on a context and the block's chaining value and counter: the context after it, whose `digest` it returns, and the
block's. A finalized context keeps its stored digest and the block is not touched. -/
def b2Final (c : B2Ctx) (s : Vector DWord 8 × BitVec 128) : B2Ctx × (Vector DWord 8 × BitVec 128) :=
  if c.fin then (c, s)
  else
    let t := b2Apply s (b2LastCall c)
    (c.finish t.1, t)

/-- BLAKE2b of a message with digest length `nn` and a key (`[]` for none); a rejected `init` fails with its own error and nothing
else is done (R318). -/
def blake2bDigest (nn : Nat) (key msg : List Byte) : Except Failure (List Byte) :=
  match blake2bInitVerdict nn key.length with
  | some e => .error (failureOf e)
  | none =>
    let u := b2Update (b2InitCtx nn key) msg
    let s := u.2.foldl b2Apply (b2hInit (BitVec.ofNat 8 nn) (BitVec.ofNat 8 key.length), 0)
    .ok (b2Final u.1 s).1.digest

/-- `root(left, right, size)` for BLAKE2b (R325). -/
def blake2bRoot (left right : List Byte) (size : Nat) : Except Failure (List Byte) :=
  rootOf size (blake2bDigest size []) left right

/-- `mac(data, key, size)` and `hmac()` for BLAKE2b: the native keyed hash (R326). -/
def blake2bMac (data key : List Byte) (size : Nat) : Except Failure (List Byte) := blake2bDigest size key data

/-! ## HMAC, PBKDF2 and scrypt (R326 to R330) -/

/-- The key block K0 of HMAC over a digest function of block size `bs` (R326). -/
def hmacKey (digest : List Byte → List Byte) (bs : Nat) (key : List Byte) : List Byte :=
  let k := if key.length > bs then digest key else key
  k ++ List.replicate (bs - k.length) 0

/-- K0 XORed with a pad byte in every position (R326). -/
def padWith (pad : Byte) (k0 : List Byte) : List Byte := k0.map (· ^^^ pad)

/-- HMAC over a digest function of block size `bs` (R326, for reference). -/
def hmac (digest : List Byte → List Byte) (bs : Nat) (key msg : List Byte) : List Byte :=
  let k0 := hmacKey digest bs key
  digest (padWith 0x5C k0 ++ digest (padWith 0x36 k0 ++ msg))

/-- `mac(data, key)` for SHA-256: block size 64 (R326). -/
def hmacSha256 (key msg : List Byte) : List Byte := hmac sha256Digest 64 key msg

/-- `mac(data, key)` for SHA-512: block size 128 (R326). -/
def hmacSha512 (key msg : List Byte) : List Byte := hmac sha512Digest 128 key msg

/-- PBKDF2-HMAC-SHA256 with one iteration (R330, for reference). -/
def pbkdf2 (password salt : List Byte) (outLen : Nat) : List Byte :=
  ((List.range ((outLen + 31) / 32)).flatMap fun i =>
    hmacSha256 password (salt ++ be32bytes (BitVec.ofNat 32 (i + 1)))).take outLen

/-- The two parameter checks the scrypt driver makes before any work, in the source's order (R327 step 1, R328). -/
def scryptCheck (N r p : Nat) : Option CmdError :=
  if r * p ≥ 2 ^ 30 then some .tooLarge
  else if N < 2 ∨ N &&& (N - 1) ≠ 0 ∨ N > 2 ^ 32 - 1 then some .invalidCost
  else none

/-- Step 3 of `derive` (R327): load XBUF and the SCRYPT registers. -/
def scryptLoad (N r p : Nat) (B : List Byte) : List Event :=
  ldbuf xbufBase (32 * r * p) B ++
    [wr 0x10 (BitVec.ofNat 32 N), wr 0x14 (BitVec.ofNat 32 r), wr 0x18 (BitVec.ofNat 32 p)]

/-- The p blocks of `B`, each through ROMix (R250, R327). -/
def scryptMix (N r p : Nat) (B : List Byte) : List Byte :=
  (List.range p).flatMap fun k => (romix N r ((B.drop (128 * r * k)).take (128 * r)) []).1

/-- `derive(password, salt, N, r, p, dkLen)` on a block with the parameters `c` (R327): it fails with the driver's own check before any
work (step 1), or with the error ROMIX is rejected with (step 4; R328: ZERO_PARAM and CAPACITY are the block's). -/
def scryptDerive (c : Config) (password salt : List Byte) (N r p dkLen : Nat) : Except Failure (List Byte) :=
  match scryptCheck N r p with
  | some e => .error (failureOf e)
  | none =>
    match romixVerdict c N r p with
    | some e => .error (failureOf e)
    | none => .ok (pbkdf2 password (scryptMix N r p (pbkdf2 password salt (p * 128 * r))) dkLen)

end Sys2Proof.Machine.Driver
end

