-- ==== Sys2Proof/Safety.lean ====
section
/-! DEFINITION. What the states of a run have in common (10_state.md R55; 60_exceptions.md R340, R345), and what the host can
observe. -/

namespace Sys2Proof.Machine

/-- The invariant of the block. -/
structure Inv (s : State) : Prop where
  /-- BUSY = 1 iff a command is pending (R50, R55). -/
  busy_pending : s.busy = s.pending.isSome
  /-- ERR = 0 implies ERRCODE = 0 and ERRCMD = 0 (R55). -/
  err_clear : s.err = false → s.errcode = 0 ∧ s.errcmd = 0
  /-- ERR = 1 implies one of the codes 1 to 8 (R340). -/
  err_code : s.err = true → 1 ≤ s.errcode.toNat ∧ s.errcode.toNat ≤ 8
  /-- The pending word passed validation, and would pass it still (R345, 20_memory.md R72). -/
  pending_valid : ∀ w, s.pending = some w → validate s w = none
  /-- The buffer memory is in canonical form. -/
  mem_wf : s.mem.wf = true
  /-- The buffer memory lists bytes of M256, M512, B2M and XBUF only (10_state.md R23). -/
  mem_mapped : ∀ c ∈ s.mem, inBuffer s.cfg c.1 = true
  /-- The scratch table is in canonical form. -/
  scratch_wf : s.scratch.wf = true
  /-- The scratch table lies within SCRATCH_BYTES (44_salsa_scrypt.md R252). -/
  scratch_bound : ∀ c ∈ s.scratch, c.1 < s.cfg.scratchBytes
  /-- The parameters are ones 00_scope.md R9 allows. -/
  cfg_wf : s.cfg.wf = true

/-- Two states that differ in the contents of the scratch table only (R49, R53). -/
def SameButScratch (s t : State) : Prop := { s with scratch := t.scratch } = t

/-- Two states with the same block (R55 and the scratch table) and parameters: they may differ in the schedule and the replies. -/
def SameBlock (s t : State) : Prop := { s with inbox := t.inbox, replies := t.replies } = t

/-- Two outcomes of a step that the host cannot tell apart: the same stop, or states that differ in the scratch table only. -/
def SameOutcomeButScratch : Result → Result → Prop
  | .next s, .next t => SameButScratch s t
  | .fault f, .fault g => f = g
  | .refused r, .refused q => r = q
  | _, _ => False

/-- The host's access is a soft reset: a write to CTRL with bit 1 set (70_reset_and_hazards.md R381). -/
def isSoftReset : Access → Bool
  | .write off size v => off == 0x04 && size == 4 && v.getLsbD 1
  | .read _ _ => false

/-- The offsets of the control and status registers in the table of 10_state.md R23. -/
abbrev controlOffset (off : Nat) : Prop := off % 4 = 0 ∧ off < 0x28

/-- The offsets of the engine data locations in the table of 10_state.md R23. -/
abbrev dataOffset (c : Config) (off : Nat) : Prop :=
  off % 4 = 0 ∧ ((0x100 ≤ off ∧ off < 0x120) ∨ (0x140 ≤ off ∧ off < 0x180) ∨ (0x200 ≤ off ∧ off < 0x240) ∨
    (0x280 ≤ off ∧ off < 0x300) ∨ (0x300 ≤ off ∧ off < 0x340) ∨ (0x340 ≤ off ∧ off < 0x350) ∨
    (0x380 ≤ off ∧ off < 0x400) ∨ (0x10000 ≤ off ∧ off < 0x10000 + c.xbufBytes ∧ off < 0x20000))

/-- The rules of a SHA-2 compression as equations between its successive values (41_sha256.md R156 to R158, 42_sha512.md R186 to
R188): `W` is the message schedule from the message words `M`, `v t` are the working variables before round `t`, of `n`. -/
def Sha2Rule {w : Nat} (sum0 sum1 sig0 sig1 : BitVec w → BitVec w) (n : Nat) (K M : Nat → BitVec w)
    (H out : Vector (BitVec w) 8) : Prop :=
  ∃ (W : Nat → BitVec w) (v : Nat → Working w),
    (∀ t, t < 16 → W t = M t) ∧
    (∀ t, 16 ≤ t → t < n → W t = sig1 (W (t - 2)) + W (t - 7) + sig0 (W (t - 15)) + W (t - 16)) ∧
    v 0 = ⟨H[0], H[1], H[2], H[3], H[4], H[5], H[6], H[7]⟩ ∧
    (∀ t, t < n →
      let x := v t
      let t1 := x.h + sum1 x.e + ((x.e &&& x.f) ^^^ (~~~x.e &&& x.g)) + K t + W t
      let t2 := sum0 x.a + ((x.a &&& x.b) ^^^ (x.a &&& x.c) ^^^ (x.b &&& x.c))
      v (t + 1) = ⟨t1 + t2, x.a, x.b, x.c, x.d + t1, x.e, x.f, x.g⟩) ∧
    out = #v[H[0] + (v n).a, H[1] + (v n).b, H[2] + (v n).c, H[3] + (v n).d,
      H[4] + (v n).e, H[5] + (v n).f, H[6] + (v n).g, H[7] + (v n).h]

end Sys2Proof.Machine
end

