-- ==== Sys2Proof/Certificates/Slice0/Obligations.lean ====
section
/-! DEFINITION. The statements for the provers. Each docstring names the rules of spec/ it rests on, and says where a clause is the
model's choice and not the spec's. -/

open Sys2Proof Sys2Proof.Machine

/-! ## Encoding (30_encoding.md) -/

/-- R96, R98: a word decodes to a command iff it is the command's word. So decoding gives back every encoded command with every
operand value, and no two words mean the same command. -/
def Obligations.DecodeIffEncode : Prop :=
  ∀ (w : Word) (i : Instr), decodeWord w = .ok i ↔ w = encode i

/-- R94: a word decodes to a command with a given mnemonic iff it matches a row with that mnemonic, and no word matches two rows. -/
def Obligations.DecodeFollowsOpcodeTable : Prop :=
  (∀ (w : Word) (m : String),
    (∃ i, decodeWord w = .ok i ∧ mnemonicOf i = m) ↔
      (∃ row ∈ opcodeRows, row.mnemonic = m ∧ w &&& row.mask = row.value)) ∧
  (∀ (w : Word), ∀ p ∈ opcodeRows, ∀ q ∈ opcodeRows, p.selects w = true → q.selects w = true → p = q)

/-- R93, R95, R98 and the table of 95_test_vectors.md V25: words written out from the encoding, and the commands they decode to. -/
def Obligations.WordsOfTheSpecDecode : Prop :=
  decodeWord 0x00000000 = .ok .nop ∧
  decodeWord 0x00000002 = .ok .sha256Compress ∧
  decodeWord 0x00000013 = .ok .sha512Zero ∧
  decodeWord 0x00404021 = .ok (.blake2bInit 64 64) ∧
  decodeWord 0x01000322 = .ok (.blake2bCompress 3 true) ∧
  decodeWord 0x00008022 = .ok (.blake2bCompress 128 false) ∧
  decodeWord 0x00000033 = .ok .romix ∧
  decodeWord 0x02000001 = .error .reservedBits ∧
  decodeWord 0x00000004 = .error .unknownOpcode ∧
  decodeWord 0x00018022 = .error .unusedField ∧
  decodeWord 0x01004021 = .error .unusedField

/-- R91, R341: for every command but BLOCKMIX and ROMIX, whose operands are registers, validation accepts exactly the well-formed
commands, whatever the state. -/
def Obligations.WellFormedIffAccepted : Prop :=
  ∀ (i : Instr) (s : State), i ≠ .blockmix → i ≠ .romix → (WellFormed i = true ↔ validate s (encode i) = none)

/-! ## Word and lane arithmetic (40_word_arith.md) -/

/-- R126: lane addition with carry is addition modulo 2^64. -/
def Obligations.LaneAddIsWideAdd : Prop :=
  ∀ (ah al bh bl : Word),
    ofLanes (laneAdd ah al bh bl).1 (laneAdd ah al bh bl).2 = ofLanes ah al + ofLanes bh bl

/-- R128, R129: lane rotation and lane shift by 0 < n < 64 are the rotation and the logical shift of the 64-bit word. -/
def Obligations.LaneRotateAndShiftAreWide : Prop :=
  ∀ (hi lo : Word) (n : Nat), 0 < n → n < 64 →
    ofLanes (laneRotr hi lo n).1 (laneRotr hi lo n).2 = (ofLanes hi lo).rotateRight n ∧
    ofLanes (laneShr hi lo n).1 (laneShr hi lo n).2 = ofLanes hi lo >>> n

/-! ## Memory and the host window (20_memory.md, 10_state.md, 45_control.md) -/

/-- The canonical form of byte memory: two memories in it that read the same everywhere are the same data (log entry 6). -/
def Obligations.CanonicalMemoryIsUnique : Prop :=
  ∀ (m n : Memory), m.wf = true → n.wf = true → (∀ a, m.read a = n.read a) → m = n

/-- R63 (a) to (d): how the engines' words follow from the host words of the buffers. -/
def Obligations.EngineWordsFromHostWords : Prop :=
  ∀ (s : State) (t : Nat),
    (t < 16 → be32 s.m256 (4 * t) = bswap32 (s.mem.readWord (0x140 + 4 * t))) ∧
    (t < 16 → be64 s.m512 (8 * t) =
      ofLanes (bswap32 (s.mem.readWord (0x280 + 8 * t))) (bswap32 (s.mem.readWord (0x284 + 8 * t)))) ∧
    (t < 16 → le64 s.b2m (8 * t) = ofLanes (s.mem.readWord (0x384 + 8 * t)) (s.mem.readWord (0x380 + 8 * t))) ∧
    (∀ c, t < 16 → le32 (s.xbuf (64 * c) 64) (4 * t) = s.mem.readWord (0x10000 + 4 * (16 * c + t)))

/-- R282 with R64, R65: an access is answered with a bus error exactly when its size is not 4, its offset is not a multiple of 4 or is
outside the window, or the table of R23 does not list it; and then only that reply changes. -/
def Obligations.BusErrorExactlyWhenUnmapped : Prop :=
  ∀ (s : State) (off size : Nat) (v : Word),
    ((size = 4 ∧ (controlOffset off ∨ dataOffset s.cfg off)) →
      (∃ x, hostAccess s (.read off size) = { s with replies := .value x :: s.replies }) ∧
      (∃ t : State, hostAccess s (.write off size v) = { t with replies := .written :: s.replies })) ∧
    (¬ (size = 4 ∧ (controlOffset off ∨ dataOffset s.cfg off)) →
      hostAccess s (.read off size) = { s with replies := .busError off :: s.replies } ∧
      hostAccess s (.write off size v) = { s with replies := .busError off :: s.replies })

/-- R67: a read changes nothing but the reply, and a second read of one offset returns what the first did, whatever is read between. -/
def Obligations.ReadsHaveNoSideEffects : Prop :=
  ∀ (s : State) (off size off' size' : Nat),
    SameBlock (hostAccess s (.read off size)) s ∧
    hostRead (hostAccess s (.read off' size')) off size = hostRead s off size

/-- R281, the control registers: what each reads, whether or not BUSY = 1. -/
def Obligations.ControlRegisterReads : Prop :=
  ∀ (s : State),
    hostRead s 0x00 4 = .value 0xBC250007 ∧
    hostRead s 0x04 4 = .value (BitVec.ofNat 32 s.ie.toNat) ∧
    hostRead s 0x08 4 = .value (BitVec.ofNat 32 (s.busy.toNat + 2 * s.done.toNat + 4 * s.err.toNat + 8 * s.busywr.toNat +
      16 * s.b2fin.toNat + 256 * s.errcode.toNat)) ∧
    hostRead s 0x0C 4 = .value 0 ∧
    hostRead s 0x10 4 = .value s.scryptN ∧
    hostRead s 0x14 4 = .value s.scryptR ∧
    hostRead s 0x18 4 = .value s.scryptP ∧
    hostRead s 0x1C 4 = .value s.errcmd ∧
    hostRead s 0x20 4 = .value (BitVec.ofNat 32 s.cfg.xbufBytes) ∧
    hostRead s 0x24 4 = .value (BitVec.ofNat 32 (s.cfg.scratchBytes / 1024))

/-- R281, the engine data locations while BUSY = 0: words, lanes, counter words, and buffer bytes packed little-endian (R61). -/
def Obligations.DataReadsWhileIdle : Prop :=
  ∀ (s : State), s.busy = false →
    (∀ k : Fin 8, hostRead s (0x100 + 4 * k) 4 = .value s.h256[k]) ∧
    (∀ k : Fin 8, hostRead s (0x200 + 8 * k) 4 = .value (BitVec.ofNat 32 (s.h512[k].toNat / 2 ^ 32))) ∧
    (∀ k : Fin 8, hostRead s (0x204 + 8 * k) 4 = .value (BitVec.ofNat 32 (s.h512[k].toNat % 2 ^ 32))) ∧
    (∀ k : Fin 8, hostRead s (0x300 + 8 * k) 4 = .value (BitVec.ofNat 32 (s.b2h[k].toNat % 2 ^ 32))) ∧
    (∀ k : Fin 8, hostRead s (0x304 + 8 * k) 4 = .value (BitVec.ofNat 32 (s.b2h[k].toNat / 2 ^ 32))) ∧
    (∀ q : Fin 4, hostRead s (0x340 + 4 * q) 4 = .value (BitVec.ofNat 32 (s.b2t.toNat / 2 ^ (32 * (q : Nat))))) ∧
    (∀ off, off < 0x20000 → off % 4 = 0 → inBuffer s.cfg off = true →
      hostRead s off 4 = .value (BitVec.ofNat 32 ((s.mem.read off).toNat + (s.mem.read (off + 1)).toNat * 2 ^ 8 +
        (s.mem.read (off + 2)).toNat * 2 ^ 16 + (s.mem.read (off + 3)).toNat * 2 ^ 24)))

/-- R23, R24, R283: while BUSY = 0 every data location and every SCRYPT register reads back what was written, and a write leaves every
other location as it was. -/
def Obligations.WritableLocationsAreSeparateStorage : Prop :=
  ∀ (s : State) (off off' : Nat) (v : Word), s.busy = false →
    (dataOffset s.cfg off ∨ off = 0x10 ∨ off = 0x14 ∨ off = 0x18) →
    hostRead (hostWrite s off 4 v).1 off 4 = .value v ∧
    (off' ≠ off → hostRead (hostWrite s off 4 v).1 off' 4 = hostRead s off' 4)

/-- R285: while a command is pending an engine data location reads 0, and a read of one changes nothing but the reply; the control
registers read as they do when idle (R281), STATUS with its BUSY bit. -/
def Obligations.BusyReadsGiveZero : Prop :=
  ∀ (s : State) (off : Nat), s.busy = true →
    (dataOffset s.cfg off → hostAccess s (.read off 4) = { s with replies := .value 0 :: s.replies }) ∧
    (controlOffset off → off ≠ 0x08 → hostRead s off 4 = hostRead { s with busy := false } off 4) ∧
    (∃ x y : Word, hostRead s 0x08 4 = .value x ∧ hostRead { s with busy := false } 0x08 4 = .value y ∧ x = y ||| 1)

/-- R286: while a command is pending a write to CMD, SCRYPT_N, SCRYPT_R, SCRYPT_P or an engine data location changes BUSYWR only; a
write to another register acts as when idle. -/
def Obligations.BusyWritesAreDropped : Prop :=
  ∀ (s : State) (off : Nat) (v : Word), s.busy = true →
    ((dataOffset s.cfg off ∨ off = 0x0C ∨ off = 0x10 ∨ off = 0x14 ∨ off = 0x18) →
      hostWrite s off 4 v = ({ s with busywr := true }, .written)) ∧
    ((off = 0x00 ∨ off = 0x1C ∨ off = 0x20 ∨ off = 0x24) → hostWrite s off 4 v = (s, .written)) ∧
    hostWrite s 0x08 4 v =
      ({ (hostWrite { s with busy := false } 0x08 4 v).1 with busy := true }, .written) ∧
    (v.getLsbD 1 = false → hostWrite s 0x04 4 v =
      ({ (hostWrite { s with busy := false } 0x04 4 v).1 with busy := true }, .written)) ∧
    (v.getLsbD 1 = true → hostWrite s 0x04 4 v = hostWrite { s with busy := false } 0x04 4 v)

/-- R287: writes to the read-only registers change nothing and raise no bus error, and the reserved bits of CTRL (31:2) and STATUS
(all but 3:1) are ignored. -/
def Obligations.ReadOnlyWritesAreIgnored : Prop :=
  (∀ (s : State) (off : Nat) (v : Word), (off = 0x00 ∨ off = 0x1C ∨ off = 0x20 ∨ off = 0x24) →
    hostWrite s off 4 v = (s, .written)) ∧
  (∀ (s : State) (v u : Word), v &&& 0x3 = u &&& 0x3 → hostWrite s 0x04 4 v = hostWrite s 0x04 4 u) ∧
  (∀ (s : State) (v u : Word), v &&& 0xE = u &&& 0xE → hostWrite s 0x08 4 v = hostWrite s 0x08 4 u)

/-! ## STATUS, CTRL, the interrupt line, reset (45_control.md, 60_exceptions.md, 70_reset_and_hazards.md) -/

/-- R288: a STATUS write clears DONE, the error record and BUSYWR by ones, whether or not BUSY = 1, and changes nothing else; and a
completion after it sets DONE again. -/
def Obligations.StatusWriteClearsByOnes : Prop :=
  (∀ (s : State) (v : Word),
    hostWrite s 0x08 4 v =
      ({ s with
          done := s.done && !v.getLsbD 1,
          err := s.err && !v.getLsbD 2,
          errcode := if v.getLsbD 2 = true then 0 else s.errcode,
          errcmd := if v.getLsbD 2 = true then 0 else s.errcmd,
          busywr := s.busywr && !v.getLsbD 3 }, .written)) ∧
  (∀ (i : Instr) (s t : State), exec i (hostWrite s 0x08 4 0x0000000E).1 = .next t → t.done = true)

/-- R289 with R381: a CTRL write with bit 1 set puts every piece of state in its reset value, whatever is pending; any other CTRL write
sets IE only. The scratch table, which R54 leaves unspecified, is left out (log entry 5). -/
def Obligations.CtrlWriteSetsIeOrResets : Prop :=
  ∀ (s : State) (v : Word),
    (v.getLsbD 1 = false → hostWrite s 0x04 4 v = ({ s with ie := v.getLsbD 0 }, .written)) ∧
    (v.getLsbD 1 = true → ∃ m, hostWrite s 0x04 4 v =
      ({ ie := false, busy := false, done := false, err := false, busywr := false, b2fin := false, errcode := 0, errcmd := 0,
         scryptN := 0, scryptR := 0, scryptP := 0, h256 := Vector.replicate 8 0, h512 := Vector.replicate 8 0,
         b2h := Vector.replicate 8 0, b2t := 0, mem := [], pending := none, scratch := m, cfg := s.cfg, inbox := s.inbox,
         replies := s.replies }, .written))

/-- R380: the RESET input, at any moment, puts every piece of state in its value of R54, discards the pending command, leaves the
parameters, and the interrupt line is low after it. That the schedule and the replies outlive it is the model's (log entries 1, 8);
the scratch table is left out (log entry 5). -/
def Obligations.HardwareResetFromAnyState : Prop :=
  ∀ (s : State) (es : List Event), s.inbox = .reset :: es → ∃ t, step s = .next t ∧ t.irq = false ∧ ∃ m, t =
    { ie := false, busy := false, done := false, err := false, busywr := false, b2fin := false, errcode := 0, errcmd := 0,
      scryptN := 0, scryptR := 0, scryptP := 0, h256 := Vector.replicate 8 0, h512 := Vector.replicate 8 0,
      b2h := Vector.replicate 8 0, b2t := 0, mem := [], pending := none, scratch := m, cfg := s.cfg, inbox := es,
      replies := s.replies }

/-- R54: the values after reset as the host reads them (95_test_vectors.md V28), and PENDING and B2FIN. The parameters are the defaults
of R9 (log entry 4). -/
def Obligations.ResetStateReads : Prop :=
  ((List.range 10).map fun k => hostRead State.reset (4 * k) 4) =
    [.value 0xBC250007, .value 0, .value 0, .value 0, .value 0, .value 0, .value 0, .value 0, .value 0x00010000,
     .value 0x00004000] ∧
  (∀ off, dataOffset State.reset.cfg off → hostRead State.reset off 4 = .value 0) ∧
  State.reset.pending = none ∧ State.reset.b2fin = false ∧ State.reset.irq = false

/-- R350, R351: the line is IE while a command's end or rejection has just set DONE, and low once the host clears DONE or IE. -/
def Obligations.IrqFollowsDoneAndIe : Prop :=
  (∀ (i : Instr) (s t : State), exec i s = .next t → t.irq = s.ie) ∧
  (∀ (s : State) (w : Word), s.busy = false → validate s w ≠ none → (hostWrite s 0x0C 4 w).1.irq = s.ie) ∧
  (∀ (s : State), (hostWrite s 0x08 4 0x0000000E).1.irq = false ∧ (hostWrite s 0x04 4 0).1.irq = false ∧
    (hostWrite s 0x04 4 1).1.irq = s.done)

/-! ## Issue and validation (45_control.md R284, 60_exceptions.md R340 to R343) -/

/-- R284, R342: a CMD write while BUSY = 0 either is rejected, and changes ERR, ERRCODE, ERRCMD and DONE only, or is accepted, and changes
BUSY and PENDING only. -/
def Obligations.CommandIssue : Prop :=
  ∀ (s : State) (w : Word), s.busy = false →
    (∀ e, validate s w = some e →
      hostWrite s 0x0C 4 w = ({ s with err := true, errcode := e.code, errcmd := w, done := true }, .written)) ∧
    (validate s w = none → hostWrite s 0x0C 4 w = ({ s with busy := true, pending := some w }, .written))

/-- R95: the issue of a word that matches no row of R94 is rejected with code 1. -/
def Obligations.IllegalWordIsRejected : Prop :=
  ∀ (s : State) (w : Word), s.busy = false → (∀ row ∈ opcodeRows, w &&& row.mask ≠ row.value) →
    hostWrite s 0x0C 4 w = ({ s with err := true, errcode := 1, errcmd := w, done := true }, .written)

/-- R341, R343: the codes with which BLAKE2B_INIT and BLAKE2B_COMPRESS words are rejected, in their order, whatever the engine's state. -/
def Obligations.Blake2bOperandChecks : Prop :=
  ∀ (s : State) (nn kk len : BitVec 8) (f : Bool),
    ((validate s (encode (.blake2bInit nn kk))).map CmdError.code =
      if nn.toNat = 0 ∨ 64 < nn.toNat then some 2 else if 64 < kk.toNat then some 3 else none) ∧
    ((validate s (encode (.blake2bCompress len f))).map CmdError.code = if 128 < len.toNat then some 4 else none)

/-- R247, R256, R257, R341, R343: the code with which ROMIX and BLOCKMIX are rejected, the first that applies in the order TOO_LARGE,
INVALID_COST, ZERO_PARAM, CAPACITY, all products exact; and that they are accepted otherwise. -/
def Obligations.ScryptRejectionCodes : Prop :=
  ∀ (s : State) (N r p : Nat), N = s.scryptN.toNat → r = s.scryptR.toNat → p = s.scryptP.toNat →
    (2 ^ 30 ≤ r * p → (validate s (encode .romix)).map CmdError.code = some 5) ∧
    (r * p < 2 ^ 30 → (¬ ∃ k, 1 ≤ k ∧ N = 2 ^ k) → (validate s (encode .romix)).map CmdError.code = some 6) ∧
    (r * p < 2 ^ 30 → (∃ k, 1 ≤ k ∧ N = 2 ^ k) → (validate s (encode .romix)).map CmdError.code =
      if r = 0 ∨ p = 0 then some 7
      else if s.cfg.xbufBytes < 128 * r * p ∨ s.cfg.scratchBytes < 128 * r * N then some 8
      else none) ∧
    ((validate s (encode .blockmix)).map CmdError.code =
      if r = 0 then some 7 else if s.cfg.xbufBytes < 128 * r then some 8 else none)

/-! ## The commands: results, completion and frames -/

/-- R280: NOP completes from every state and changes BUSY, PENDING and DONE only. -/
def Obligations.NopCompletes : Prop :=
  ∀ (s : State), exec .nop s = .next { s with busy := false, pending := none, done := true }

/-- R152, R154, R182, R184: the INIT and ZERO commands of the SHA engines complete from every state, load IV256 (R151), IV512 (R181) or 0,
and change nothing else but BUSY, PENDING and DONE; M256 and M512 are unchanged. -/
def Obligations.ShaInitAndZeroComplete : Prop :=
  ∀ (s : State),
    exec .sha256Init s = .next { s with busy := false, pending := none, done := true, h256 :=
      #v[0x6A09E667, 0xBB67AE85, 0x3C6EF372, 0xA54FF53A, 0x510E527F, 0x9B05688C, 0x1F83D9AB, 0x5BE0CD19] } ∧
    exec .sha256Zero s = .next { s with busy := false, pending := none, done := true, h256 := #v[0, 0, 0, 0, 0, 0, 0, 0] } ∧
    exec .sha512Init s = .next { s with busy := false, pending := none, done := true, h512 :=
      #v[0x6A09E667F3BCC908, 0xBB67AE8584CAA73B, 0x3C6EF372FE94F82B, 0xA54FF53A5F1D36F1,
         0x510E527FADE682D1, 0x9B05688C2B3E6C1F, 0x1F83D9ABFB41BD6B, 0x5BE0CD19137E2179] } ∧
    exec .sha512Zero s = .next { s with busy := false, pending := none, done := true, h512 := #v[0, 0, 0, 0, 0, 0, 0, 0] }

/-- R153, R155 to R158: SHA256_COMPRESS completes from every state, replaces H256 by the compression of H256 and the sixteen big-endian
words of M256, and changes nothing else but BUSY, PENDING and DONE. -/
def Obligations.Sha256CompressResult : Prop :=
  ∀ (s : State), ∃ out : Vector Word 8,
    exec .sha256Compress s = .next { s with busy := false, pending := none, done := true, h256 := out } ∧
    Sha2Rule (fun x => x.rotateRight 2 ^^^ x.rotateRight 13 ^^^ x.rotateRight 22)
      (fun x => x.rotateRight 6 ^^^ x.rotateRight 11 ^^^ x.rotateRight 25)
      (fun x => x.rotateRight 7 ^^^ x.rotateRight 18 ^^^ (x >>> 3))
      (fun x => x.rotateRight 17 ^^^ x.rotateRight 19 ^^^ (x >>> 10)) 64 (fun t => k256.getD t 0)
      (fun t => s.mem.read (0x140 + 4 * t) ++ s.mem.read (0x141 + 4 * t) ++ s.mem.read (0x142 + 4 * t) ++
        s.mem.read (0x143 + 4 * t)) s.h256 out

/-- R183, R185 to R188: SHA512_COMPRESS completes from every state, replaces H512 by the compression of H512 and the sixteen big-endian
words of M512, and changes nothing else but BUSY, PENDING and DONE. -/
def Obligations.Sha512CompressResult : Prop :=
  ∀ (s : State), ∃ out : Vector DWord 8,
    exec .sha512Compress s = .next { s with busy := false, pending := none, done := true, h512 := out } ∧
    Sha2Rule (fun x => x.rotateRight 28 ^^^ x.rotateRight 34 ^^^ x.rotateRight 39)
      (fun x => x.rotateRight 14 ^^^ x.rotateRight 18 ^^^ x.rotateRight 41)
      (fun x => x.rotateRight 1 ^^^ x.rotateRight 8 ^^^ (x >>> 7))
      (fun x => x.rotateRight 19 ^^^ x.rotateRight 61 ^^^ (x >>> 6)) 80 (fun t => k512.getD t 0)
      (fun t => s.mem.read (0x280 + 8 * t) ++ s.mem.read (0x281 + 8 * t) ++ s.mem.read (0x282 + 8 * t) ++
        s.mem.read (0x283 + 8 * t) ++ s.mem.read (0x284 + 8 * t) ++ s.mem.read (0x285 + 8 * t) ++
        s.mem.read (0x286 + 8 * t) ++ s.mem.read (0x287 + 8 * t)) s.h512 out

/-- R212, R218: BLAKE2B_INIT with NN in 1..64 and KK in 0..64 completes from every state: B2H is the initial value with the folded word
0x0101KKNN in word 0, B2T and B2FIN are 0, and nothing else changes but BUSY, PENDING and DONE. -/
def Obligations.Blake2bInitResult : Prop :=
  ∀ (s : State) (nn kk : BitVec 8), 1 ≤ nn.toNat → nn.toNat ≤ 64 → kk.toNat ≤ 64 →
    exec (.blake2bInit nn kk) s = .next { s with
      busy := false, pending := none, done := true, b2t := 0, b2fin := false, b2h :=
      #v[0x6A09E667F3BCC908 ^^^ BitVec.ofNat 64 (0x01010000 + 2 ^ 8 * kk.toNat + nn.toNat), 0xBB67AE8584CAA73B,
         0x3C6EF372FE94F82B, 0xA54FF53A5F1D36F1, 0x510E527FADE682D1, 0x9B05688C2B3E6C1F, 0x1F83D9ABFB41BD6B,
         0x5BE0CD19137E2179] }

/-- R213, R221: a BLAKE2B_COMPRESS with LEN in 0..128 and B2FIN = 0 completes: the counter advances by LEN modulo 2^128, B2H is compressed
with the new counter, B2FIN becomes F, and nothing else changes but BUSY, PENDING and DONE. -/
def Obligations.Blake2bCompressResult : Prop :=
  ∀ (s : State) (len : BitVec 8) (f : Bool), len.toNat ≤ 128 → s.b2fin = false →
    exec (.blake2bCompress len f) s = .next { s with
      busy := false, pending := none, done := true
      b2t := BitVec.ofNat 128 (s.b2t.toNat + len.toNat)
      b2h := blake2bCompress s.b2h s.b2m (BitVec.ofNat 128 (s.b2t.toNat + len.toNat)) f
      b2fin := f }

/-- R222: while B2FIN = 1, a BLAKE2B_COMPRESS that passes validation completes and changes BUSY, PENDING and DONE only. -/
def Obligations.FinalizedCompressIsNoOp : Prop :=
  ∀ (s : State) (len : BitVec 8) (f : Bool), s.b2fin = true → validate s (encode (.blake2bCompress len f)) = none →
    exec (.blake2bCompress len f) s = .next { s with busy := false, pending := none, done := true }

/-- R214: what G does to its four lanes, and that it leaves the other twelve alone. -/
def Obligations.MixGOnItsLanes : Prop :=
  ∀ (v : Vector DWord 16) (a b c d : Fin 16) (x y : DWord), [a, b, c, d].Nodup →
    let a1 := v[a] + v[b] + x
    let d1 := (v[d] ^^^ a1).rotateRight 32
    let c1 := v[c] + d1
    let b1 := (v[b] ^^^ c1).rotateRight 24
    let a2 := a1 + b1 + y
    let d2 := (d1 ^^^ a2).rotateRight 16
    let c2 := c1 + d2
    let b2 := (b1 ^^^ c2).rotateRight 63
    let u := mixG v a b c d x y
    u[a] = a2 ∧ u[b] = b2 ∧ u[c] = c2 ∧ u[d] = d2 ∧ ∀ i : Fin 16, i ∉ [a, b, c, d] → u[i] = v[i]

/-- R215: two G applications on disjoint lanes may be done in either order, so the four columns, and the four diagonals, may run in
parallel. -/
def Obligations.DisjointMixesCommute : Prop :=
  ∀ (v : Vector DWord 16) (a b c d a' b' c' d' : Fin 16) (x y x' y' : DWord), [a, b, c, d, a', b', c', d'].Nodup →
    mixG (mixG v a b c d x y) a' b' c' d' x' y' = mixG (mixG v a' b' c' d' x' y') a b c d x y

/-- R211, R215, R216, R220: the working vector a compression starts from, twelve rounds, each the four column and the four diagonal
applications of G in the order written over its row of SIGMA and the sixteen little-endian message words, and the feed-forward. What G
does is MixGOnItsLanes. -/
def Obligations.Blake2bCompressionRule : Prop :=
  let rows : List (Vector (Fin 16) 16) :=
    [ #v[0, 1, 2, 3, 4, 5, 6, 7, 8, 9, 10, 11, 12, 13, 14, 15],
      #v[14, 10, 4, 8, 9, 15, 13, 6, 1, 12, 0, 2, 11, 7, 5, 3],
      #v[11, 8, 12, 0, 5, 2, 15, 13, 10, 14, 3, 6, 7, 1, 9, 4],
      #v[7, 9, 3, 1, 13, 12, 11, 14, 2, 6, 5, 10, 4, 0, 15, 8],
      #v[9, 0, 5, 7, 2, 4, 10, 15, 14, 1, 11, 12, 6, 8, 3, 13],
      #v[2, 12, 6, 10, 0, 11, 8, 3, 4, 13, 7, 5, 15, 14, 1, 9],
      #v[12, 5, 1, 15, 14, 13, 4, 10, 0, 7, 6, 3, 9, 2, 8, 11],
      #v[13, 11, 7, 14, 12, 1, 3, 9, 5, 0, 15, 4, 8, 6, 2, 10],
      #v[6, 15, 14, 9, 11, 3, 0, 8, 12, 2, 13, 7, 1, 4, 10, 5],
      #v[10, 2, 8, 4, 7, 6, 1, 5, 15, 11, 9, 14, 3, 12, 13, 0],
      #v[0, 1, 2, 3, 4, 5, 6, 7, 8, 9, 10, 11, 12, 13, 14, 15],
      #v[14, 10, 4, 8, 9, 15, 13, 6, 1, 12, 0, 2, 11, 7, 5, 3] ]
  ∀ (h : Vector DWord 8) (M : List Byte) (t : BitVec 128) (f : Bool),
    let m : Fin 16 → DWord := fun i => le64 M (8 * i)
    ∃ v : Nat → Vector DWord 16,
      (∀ i : Fin 8, (v 0)[(i : Nat)] = h[i]) ∧
      (v 0)[8] = 0x6A09E667F3BCC908 ∧ (v 0)[9] = 0xBB67AE8584CAA73B ∧ (v 0)[10] = 0x3C6EF372FE94F82B ∧
      (v 0)[11] = 0xA54FF53A5F1D36F1 ∧
      (v 0)[12] = 0x510E527FADE682D1 ^^^ BitVec.ofNat 64 (t.toNat % 2 ^ 64) ∧
      (v 0)[13] = 0x9B05688C2B3E6C1F ^^^ BitVec.ofNat 64 (t.toNat / 2 ^ 64) ∧
      (v 0)[14] = (if f then ~~~0x1F83D9ABFB41BD6B#64 else 0x1F83D9ABFB41BD6B) ∧
      (v 0)[15] = 0x5BE0CD19137E2179 ∧
      (∀ r, r < 12 → ∃ s : Vector (Fin 16) 16, rows[r]? = some s ∧
        let c1 := mixG (v r) 0 4 8 12 (m s[0]) (m s[1])
        let c2 := mixG c1 1 5 9 13 (m s[2]) (m s[3])
        let c3 := mixG c2 2 6 10 14 (m s[4]) (m s[5])
        let c4 := mixG c3 3 7 11 15 (m s[6]) (m s[7])
        let d1 := mixG c4 0 5 10 15 (m s[8]) (m s[9])
        let d2 := mixG d1 1 6 11 12 (m s[10]) (m s[11])
        let d3 := mixG d2 2 7 8 13 (m s[12]) (m s[13])
        v (r + 1) = mixG d3 3 4 9 14 (m s[14]) (m s[15])) ∧
      ∀ i : Fin 8, (blake2bCompress h M t f)[i] = h[i] ^^^ (v 12)[(i : Nat)] ^^^ (v 12)[(i : Nat) + 8]

/-- R244: SALSA20_8 completes from every state, replaces XBUF[0..64) by its image under the core, leaves every other byte of memory, and
changes nothing else but BUSY, PENDING and DONE. -/
def Obligations.Salsa20CommandResult : Prop :=
  ∀ (s : State), ∃ t, exec .salsa20_8 s = .next t ∧
    t = { s with mem := t.mem, busy := false, pending := none, done := true } ∧
    t.xbuf 0 64 = salsa20_8 (s.xbuf 0 64) ∧
    (∀ a, ¬ (0x10000 ≤ a ∧ a < 0x10000 + 64) → t.mem.read a = s.mem.read a)

/-- R240 to R243: what the quarter-round does to its four words, leaving the other twelve alone; and the core as a chain of
quarter-rounds: the little-endian words of the block, four double-rounds, each the four columns and then the four rows, the addition
of the words they started from, and the sums written back little-endian. -/
def Obligations.QuarterRoundOnItsWords : Prop :=
  (∀ (x : Vector Word 16) (a b c d : Fin 16), [a, b, c, d].Nodup →
    let b1 := x[b] ^^^ (x[a] + x[d]).rotateLeft 7
    let c1 := x[c] ^^^ (b1 + x[a]).rotateLeft 9
    let d1 := x[d] ^^^ (c1 + b1).rotateLeft 13
    let a1 := x[a] ^^^ (d1 + c1).rotateLeft 18
    let y := quarterRound x a b c d
    y[a] = a1 ∧ y[b] = b1 ∧ y[c] = c1 ∧ y[d] = d1 ∧ ∀ i : Fin 16, i ∉ [a, b, c, d] → y[i] = x[i]) ∧
  (∀ (B : List Byte), ∃ x : Nat → Vector Word 16,
    (∀ i : Fin 16, (x 0)[i] = byteAt B (4 * i + 3) ++ byteAt B (4 * i + 2) ++ byteAt B (4 * i + 1) ++ byteAt B (4 * i)) ∧
    (∀ k, k < 4 →
      let c1 := quarterRound (x k) 0 4 8 12
      let c2 := quarterRound c1 5 9 13 1
      let c3 := quarterRound c2 10 14 2 6
      let c4 := quarterRound c3 15 3 7 11
      let r1 := quarterRound c4 0 1 2 3
      let r2 := quarterRound r1 5 6 7 4
      let r3 := quarterRound r2 10 11 8 9
      x (k + 1) = quarterRound r3 15 12 13 14) ∧
    (salsa20_8 B).length = 64 ∧
    (∀ (i : Fin 16) (j : Fin 4),
      byteAt (salsa20_8 B) (4 * i + j) = ((x 4)[i] + (x 0)[i]).extractLsb' (8 * j) 8))

/-- R245, R246 (c): BlockMix's running block through the core, and the order of its output: the even-indexed mixed chunks first. -/
def Obligations.BlockmixChunkOrder : Prop :=
  ∀ (r : Nat) (B : List Byte), 1 ≤ r → B.length = 128 * r →
    ∃ Y : Nat → List Byte,
      Y 0 = salsa20_8 (xorBytes (chunk B (2 * r - 1)) (chunk B 0)) ∧
      (∀ i, i + 1 < 2 * r → Y (i + 1) = salsa20_8 (xorBytes (Y i) (chunk B (i + 1)))) ∧
      (blockmix r B).length = 128 * r ∧
      (∀ k, k < r → chunk (blockmix r B) k = Y (2 * k) ∧ chunk (blockmix r B) (r + k) = Y (2 * k + 1))

/-- R246 (b): the all-zero block maps to the all-zero block, for every r; with it the all-zero string is a fixed point of the core
(R243). -/
def Obligations.ZeroBlockIsFixed : Prop :=
  salsa20_8 (List.replicate 64 0) = List.replicate 64 0 ∧
  ∀ (r : Nat), blockmix r (List.replicate (128 * r) 0) = List.replicate (128 * r) 0

/-- R247: BLOCKMIX with r = SCRYPT_R at least 1 and 128·r at most XBUF_BYTES completes, replaces XBUF[0..128r) by its BlockMix, leaves
every other byte of memory, and changes nothing else but BUSY, PENDING and DONE. -/
def Obligations.BlockmixCommandResult : Prop :=
  ∀ (s : State) (r : Nat), r = s.scryptR.toNat → 1 ≤ r → 128 * r ≤ s.cfg.xbufBytes →
    ∃ t, exec .blockmix s = .next t ∧
      t = { s with mem := t.mem, busy := false, pending := none, done := true } ∧
      t.xbuf 0 (128 * r) = blockmix r (s.xbuf 0 (128 * r)) ∧
      (∀ a, ¬ (0x10000 ≤ a ∧ a < 0x10000 + 128 * r) → t.mem.read a = s.mem.read a)

/-- R248: Integerify masks the low word of the last 64-byte chunk with N - 1; for N a power of two that is the word modulo N, so it names
one of the N entries; and for N at most 2^31 the low word suffices: the whole last chunk, as a little-endian integer, is the same
modulo N. -/
def Obligations.IntegerifyIsModulo : Prop :=
  ∀ (X : List Byte) (N r k : Nat), N = 2 ^ k →
    integerify X N r = ((le32 X (128 * r - 64)).toNat &&& (N - 1)) ∧
    integerify X N r = (le32 X (128 * r - 64)).toNat % N ∧ integerify X N r < N ∧
    (k ≤ 31 → integerify X N r =
      ((List.range 64).map fun i => (byteAt X (128 * r - 64 + i)).toNat * 2 ^ (8 * i)).sum % N)

/-- R249, R252, R254: ROMix through the scratch ports is the sequential algorithm with the table a function of the fill phase alone,
whatever the table held before: no entry is read that this run did not write. -/
def Obligations.RomixIsSequential : Prop :=
  ∀ (N r : Nat) (B : List Byte) (V : Memory), B.length = 128 * r →
    ∃ (X Z : Nat → List Byte),
      X 0 = B ∧ (∀ i, i < N → X (i + 1) = blockmix r (X i)) ∧
      Z 0 = X N ∧
      (∀ i, i < N → integerify (Z i) N r < N ∧ Z (i + 1) = blockmix r (xorBytes (Z i) (X (integerify (Z i) N r)))) ∧
      (romix N r B V).1 = Z N

/-- R250, R255: ROMIX, for operands that pass validation, completes; each of the p blocks of XBUF becomes its own ROMix, whatever the
scratch table holds; every other byte of memory is unchanged, and nothing else changes but BUSY, PENDING, DONE and the scratch table. -/
def Obligations.RomixCommandResult : Prop :=
  ∀ (s : State) (N r p : Nat), N = s.scryptN.toNat → r = s.scryptR.toNat → p = s.scryptP.toNat →
    r * p < 2 ^ 30 → (∃ k, 1 ≤ k ∧ N = 2 ^ k) → r ≠ 0 → p ≠ 0 → 128 * r * p ≤ s.cfg.xbufBytes →
    128 * r * N ≤ s.cfg.scratchBytes →
    ∃ t, exec .romix s = .next t ∧
      t = { s with mem := t.mem, scratch := t.scratch, busy := false, pending := none, done := true } ∧
      (∀ k V, k < p → t.xbuf (128 * r * k) (128 * r) = (romix N r (s.xbuf (128 * r * k) (128 * r)) V).1) ∧
      (∀ a, ¬ (0x10000 ≤ a ∧ a < 0x10000 + 128 * r * p) → t.mem.read a = s.mem.read a)

/-- R92, R293, R345: a command's end changes only its own engine's state: H256 for the SHA-256 commands, H512 for SHA-512, B2H, B2T and
B2FIN for BLAKE2b, XBUF for the scrypt commands, the scratch table for ROMIX alone; no command changes M256, M512, B2M, the SCRYPT
registers, IE or BUSYWR, and one that validates leaves the error record. -/
def Obligations.CommandsTouchTheirOwnEngineOnly : Prop :=
  ∀ (i : Instr) (s t : State), exec i s = .next t →
    (t.busy = false ∧ t.pending = none ∧ t.done = true) ∧
    (t.ie = s.ie ∧ t.busywr = s.busywr ∧ t.scryptN = s.scryptN ∧ t.scryptR = s.scryptR ∧ t.scryptP = s.scryptP ∧
      t.cfg = s.cfg ∧ t.inbox = s.inbox ∧ t.replies = s.replies) ∧
    (i ∉ [.sha256Init, .sha256Compress, .sha256Zero] → t.h256 = s.h256) ∧
    (i ∉ [.sha512Init, .sha512Compress, .sha512Zero] → t.h512 = s.h512) ∧
    ((∀ nn kk, i ≠ .blake2bInit nn kk) → (∀ len f, i ≠ .blake2bCompress len f) →
      t.b2h = s.b2h ∧ t.b2t = s.b2t ∧ t.b2fin = s.b2fin) ∧
    (i ∉ [.salsa20_8, .blockmix, .romix] → t.mem = s.mem) ∧
    (∀ a, a < 0x10000 → t.mem.read a = s.mem.read a) ∧
    (i ≠ .romix → t.scratch = s.scratch) ∧
    (validate s (encode i) = none → t.err = s.err ∧ t.errcode = s.errcode ∧ t.errcmd = s.errcmd)

/-! ## The step, the sequencer and whole-machine rules -/

/-- A step of the unit is `exec` of the command that PENDING decodes to, with the unit's turn taken from the schedule (R345; the
schedule is log entry 1's). -/
def Obligations.StepRunsPendingCommand : Prop :=
  ∀ (s : State) (es : List Event) (w : Word) (i : Instr),
    s.busy = true → s.pending = some w → decodeWord w = .ok i →
    (s.inbox = .unit :: es → step s = exec i { s with inbox := es }) ∧ (s.inbox = [] → step s = exec i s)

/-- A host access at the head of the schedule is performed whole, as one step (R70; the schedule is log entry 1's), and the step after
a command word is placed runs it (log entry 3). -/
def Obligations.StepPerformsHostAccess : Prop :=
  (∀ (s : State) (es : List Event) (a : Access), s.inbox = .host a :: es →
    step s = .next (hostAccess { s with inbox := es } a)) ∧
  (∀ (s : State) (i : Instr), step (s.withFetchWord 32 (encode i).toNat) =
    exec i { s with busy := true, pending := some (encode i) })

/-- R358: while BUSY = 0 the unit takes no step that changes anything: its turn passes, and with nothing more to come the state is held
(log entries 1 and 9). -/
def Obligations.IdleUnitHoldsState : Prop :=
  ∀ (s : State) (es : List Event), s.busy = false →
    (s.inbox = [] → step s = .next s) ∧ (s.inbox = .unit :: es → step s = .next { s with inbox := es })

/-- Every step keeps the invariant of R50, R55, R340 and R345. -/
def Obligations.StepKeepsInvariant : Prop :=
  ∀ (s t : State), Inv s → step s = .next t → Inv t

/-- The invariant holds after reset. -/
def Obligations.InvariantAtReset : Prop :=
  Inv State.reset ∧ ∀ c : Config, c.wf = true → Inv (State.resetWith c)

/-- Under the invariant the machine never stops: an accepted command never fails (R345), and a rejected access or command is no stop
(R282, R342). -/
def Obligations.MachineNeverStops : Prop :=
  ∀ (s : State), Inv s → ∃ t, step s = .next t

/-- R72 with R286: while a command is pending no host access but a soft reset changes what the command will read, so it reads at its
completion what stood there at its issue. -/
def Obligations.BusyAccessKeepsInputs : Prop :=
  ∀ (s : State) (a : Access), s.busy = true → isSoftReset a = false →
    let t := hostAccess s a
    t.busy = true ∧ t.pending = s.pending ∧ t.h256 = s.h256 ∧ t.h512 = s.h512 ∧ t.b2h = s.b2h ∧ t.b2t = s.b2t ∧
      t.b2fin = s.b2fin ∧ t.mem = s.mem ∧ t.scratch = s.scratch ∧ t.scryptN = s.scryptN ∧ t.scryptR = s.scryptR ∧
      t.scryptP = s.scryptP ∧ t.cfg = s.cfg

/-- R290: the only ways from IDLE to BUSY and back: an accepted CMD write; the unit's completion, a soft reset or the RESET input. -/
def Obligations.SequencerTransitions : Prop :=
  ∀ (s t : State), Inv s → step s = .next t →
    (s.busy = false → t.busy = true → ∃ w es, s.inbox = .host (.write 0x0C 4 w) :: es ∧ validate s w = none ∧
      t.pending = some w) ∧
    (s.busy = true → t.busy = false → s.inbox = [] ∨ (∃ es, s.inbox = .unit :: es) ∨ (∃ es, s.inbox = .reset :: es) ∨
      (∃ v es, s.inbox = .host (.write 0x04 4 v) :: es ∧ v.getLsbD 1 = true)) ∧
    (s.busy = true → t.busy = true → t.pending = s.pending)

/-- R47: once set, B2FIN is cleared only by the completion of a BLAKE2B_INIT or by a reset; and it is set only by the completion of a
BLAKE2B_COMPRESS with F = 1. -/
def Obligations.FinalizedFlagRule : Prop :=
  ∀ (s t : State), step s = .next t →
    let unitsTurn := s.inbox = [] ∨ ∃ es, s.inbox = .unit :: es
    (s.b2fin = true → t.b2fin = false →
      (unitsTurn ∧ ∃ w nn kk, s.pending = some w ∧ decodeWord w = .ok (.blake2bInit nn kk)) ∨
      (∃ es, s.inbox = .reset :: es) ∨ (∃ v es, s.inbox = .host (.write 0x04 4 v) :: es ∧ v.getLsbD 1 = true)) ∧
    (s.b2fin = false → t.b2fin = true →
      unitsTurn ∧ ∃ w len, s.pending = some w ∧ decodeWord w = .ok (.blake2bCompress len true))

/-- R49, R53, R254: the scratch table is never observable: two states that differ in it only step to outcomes that differ in it only. -/
def Obligations.ScratchIsUnobservable : Prop :=
  ∀ (s t : State), SameButScratch s t → SameOutcomeButScratch (step s) (step t)

/-- R291, R292 (a), R392: from an idle state, whatever the latency, issuing a valid command and waiting ends with the block idle, DONE set,
and the engines as the command's own effect leaves them. -/
def Obligations.RunCompletesAtEveryLatency : Prop :=
  ∀ (s : State) (i : Instr) (latency : Nat) (es : List Event), s.busy = false →
    validate s (encode i) = none → s.inbox = Driver.run latency i ++ es →
    ∃ t u, core.run (latency + 3) s = .next t ∧ exec i s = .next u ∧ t.inbox = es ∧ SameBlock u t

/-- R381: a soft reset abandons the pending command: its completion never happens, whatever the latency, and the unit's later turns
leave the reset state. -/
def Obligations.SoftResetAbandonsCommand : Prop :=
  ∀ (s : State) (v : Word) (n : Nat), v.getLsbD 1 = true →
    s.inbox = .host (.write 0x04 4 v) :: List.replicate n .unit →
    ∃ t, core.run (n + 1) s = .next t ∧ t.inbox = [] ∧ SameBlock (State.resetWith s.cfg) { t with scratch := [] } ∧
      t.busy = false ∧ t.done = false ∧ t.pending = none

/-! ## The host protocol (46_host_protocol.md) -/

/-- R312: splitting a message into `update` calls changes neither the blocks compressed nor the context left. -/
def Obligations.Sha2ChunkingInvariance : Prop :=
  ∀ (d : Driver.Sha2Engine) (c : Driver.HashCtx) (a b : List Byte), 0 < d.blockBytes → c.buf.length < d.blockBytes →
    let u := Driver.sha2Update d c a
    let v := Driver.sha2Update d u.1 b
    let w := Driver.sha2Update d c (a ++ b)
    v.1 = w.1 ∧ u.2 ++ v.2 = w.2

/-- R313: the padding of SHA-256 and SHA-512 fills the last block exactly, at least one byte and a length field long, and at most one
block more. -/
def Obligations.Sha2PaddingFillsBlocks : Prop :=
  ∀ (d : Driver.Sha2Engine) (count : Nat), d = Driver.sha256Engine ∨ d = Driver.sha512Engine →
    (count + (Driver.sha2Padding d count).length) % d.blockBytes = 0 ∧
    d.lenBytes < (Driver.sha2Padding d count).length ∧
    (Driver.sha2Padding d count).length ≤ d.blockBytes + d.lenBytes

/-- R319, R321, R323: the compressions of a BLAKE2b message: max(1, ceil(count / 128)) of them, count including the key block; all but the
last with LEN = 128 and F = 0, the last with F = 1; and the LENs add up to count. -/
def Obligations.Blake2bCompressionCount : Prop :=
  ∀ (nn : Nat) (key msg : List Byte), key.length ≤ 64 →
    let calls := Driver.b2Calls nn key msg
    let count := (if key.isEmpty then 0 else 128) + msg.length
    calls.length = max 1 ((count + 127) / 128) ∧
    (calls.map Driver.B2Call.len).sum = count ∧
    (∀ k ∈ calls.dropLast, k.len = 128 ∧ k.f = false ∧ k.block.length = 128) ∧
    (∃ k, calls.getLast? = some k ∧ k.f = true ∧ k.block.length = 128)

/-- R311, R61, R72: on the machine, the driver's accesses for one SHA-256 block, from an idle state and at every latency, leave M256 holding
the block and H256 the compression of it. -/
def Obligations.DriverBlockIsCompressed : Prop :=
  ∀ (s : State) (block : List Byte) (latency : Nat), s.busy = false → block.length = 64 →
    s.inbox = Driver.sha2Block Driver.sha256Engine latency block →
    ∃ t, core.run s.inbox.length s = .next t ∧ t.inbox = [] ∧ t.busy = false ∧ t.m256 = block ∧
      t.h256 = sha256Compress s.h256 block
end

