-- ==== Sys2Proof/Laws/Decode.lean ====
section
/-! SUPPORT. The fields of an encoded word, as numbers (30_encoding.md R90). -/

namespace Sys2Proof

/-- Concatenation as a number. -/
theorem toNat_append_add {n m : Nat} (x : BitVec n) (y : BitVec m) : (x ++ y).toNat = x.toNat * 2 ^ m + y.toNat := by
  rw [BitVec.toNat_append, ← Nat.shiftLeft_add_eq_or_of_lt y.isLt, Nat.shiftLeft_eq]

theorem toNat_ofBool_eq (b : Bool) : (BitVec.ofBool b).toNat = b.toNat := by cases b <;> rfl

/-- A command word as a number. -/
theorem cmdw_toNat (op a b : BitVec 8) (f : Bool) :
    (cmdw op a b f).toNat = f.toNat * 2 ^ 24 + b.toNat * 2 ^ 16 + a.toNat * 2 ^ 8 + op.toNat := by
  have h : (0#7 ++ BitVec.ofBool f ++ b ++ a ++ op).toNat =
      f.toNat * 2 ^ 24 + b.toNat * 2 ^ 16 + a.toNat * 2 ^ 8 + op.toNat := by
    simp only [toNat_append_add, toNat_ofBool_eq, BitVec.toNat_ofNat]
    omega
  exact h

theorem fieldOp_toNat (w : Word) : (fieldOp w).toNat = w.toNat % 256 := by
  simp [fieldOp]

theorem fieldA_toNat (w : Word) : (fieldA w).toNat = w.toNat / 256 % 256 := by
  simp [fieldA, Nat.shiftRight_eq_div_pow]

theorem fieldB_toNat (w : Word) : (fieldB w).toNat = w.toNat / 65536 % 256 := by
  simp [fieldB, Nat.shiftRight_eq_div_pow]

theorem fieldRsv_toNat (w : Word) : (fieldRsv w).toNat = w.toNat / 33554432 := by
  have := w.isLt
  simp only [fieldRsv, BitVec.extractLsb'_toNat, Nat.shiftRight_eq_div_pow]
  omega

theorem fieldF_toNat (w : Word) : (fieldF w).toNat = w.toNat / 16777216 % 2 := by
  simp only [fieldF, BitVec.getLsbD, Nat.testBit_eq_decide_div_mod_eq]
  rcases Nat.mod_two_eq_zero_or_one (w.toNat / 2 ^ 24) with h | h <;> simp_all

theorem fieldOp_cmdw (op a b : BitVec 8) (f : Bool) : fieldOp (cmdw op a b f) = op := by
  have := op.isLt
  exact BitVec.eq_of_toNat_eq (by rw [fieldOp_toNat, cmdw_toNat]; omega)

theorem fieldA_cmdw (op a b : BitVec 8) (f : Bool) : fieldA (cmdw op a b f) = a := by
  have := op.isLt
  have := a.isLt
  exact BitVec.eq_of_toNat_eq (by rw [fieldA_toNat, cmdw_toNat]; omega)

theorem fieldB_cmdw (op a b : BitVec 8) (f : Bool) : fieldB (cmdw op a b f) = b := by
  have := op.isLt
  have := a.isLt
  have := b.isLt
  exact BitVec.eq_of_toNat_eq (by rw [fieldB_toNat, cmdw_toNat]; omega)

theorem fieldF_cmdw (op a b : BitVec 8) (f : Bool) : fieldF (cmdw op a b f) = f := by
  have := op.isLt
  have := a.isLt
  have := b.isLt
  have hf := f.toNat_lt
  have h : (fieldF (cmdw op a b f)).toNat = f.toNat := by
    rw [fieldF_toNat, cmdw_toNat]
    omega
  revert h
  cases fieldF (cmdw op a b f) <;> cases f <;> simp

theorem fieldRsv_cmdw (op a b : BitVec 8) (f : Bool) : fieldRsv (cmdw op a b f) = 0 := by
  have := op.isLt
  have := a.isLt
  have := b.isLt
  have := f.toNat_lt
  exact BitVec.eq_of_toNat_eq (by rw [fieldRsv_toNat, cmdw_toNat]; simp; omega)

/-- A word with RSV = 0 is the concatenation of its fields. -/
theorem cmdw_fields (w : Word) (h : fieldRsv w = 0) : cmdw (fieldOp w) (fieldA w) (fieldB w) (fieldF w) = w := by
  have hr : (fieldRsv w).toNat = 0 := by rw [h]; rfl
  rw [fieldRsv_toNat] at hr
  refine BitVec.eq_of_toNat_eq ?_
  rw [cmdw_toNat, fieldOp_toNat, fieldA_toNat, fieldB_toNat, fieldF_toNat]
  omega

end Sys2Proof
end

