-- ==== Sys2Proof/Laws/Bits.lean ====
section
/-! SUPPORT. Byte order as numbers (00_scope.md R13): the words read from byte strings, and their serializations. -/

namespace Sys2Proof.Machine

/-- `BE32(B, i)` (R13). -/
theorem be32_toNat (B : List Byte) (i : Nat) : (be32 B i).toNat =
    (byteAt B i).toNat * 2 ^ 24 + (byteAt B (i + 1)).toNat * 2 ^ 16 + (byteAt B (i + 2)).toNat * 2 ^ 8 +
      (byteAt B (i + 3)).toNat := by
  have h : (byteAt B i ++ byteAt B (i + 1) ++ byteAt B (i + 2) ++ byteAt B (i + 3)).toNat =
      (byteAt B i).toNat * 2 ^ 24 + (byteAt B (i + 1)).toNat * 2 ^ 16 + (byteAt B (i + 2)).toNat * 2 ^ 8 +
        (byteAt B (i + 3)).toNat := by
    simp only [toNat_append_add]
    omega
  exact h

/-- `LE32(B, i)` (R13). -/
theorem le32_toNat (B : List Byte) (i : Nat) : (le32 B i).toNat =
    (byteAt B i).toNat + (byteAt B (i + 1)).toNat * 2 ^ 8 + (byteAt B (i + 2)).toNat * 2 ^ 16 +
      (byteAt B (i + 3)).toNat * 2 ^ 24 := by
  have h : (byteAt B (i + 3) ++ byteAt B (i + 2) ++ byteAt B (i + 1) ++ byteAt B i).toNat =
      (byteAt B i).toNat + (byteAt B (i + 1)).toNat * 2 ^ 8 + (byteAt B (i + 2)).toNat * 2 ^ 16 +
        (byteAt B (i + 3)).toNat * 2 ^ 24 := by
    simp only [toNat_append_add]
    omega
  exact h

@[simp] theorem length_le32bytes (w : Word) : (le32bytes w).length = 4 := rfl

@[simp] theorem length_be32bytes (w : Word) : (be32bytes w).length = 4 := rfl

@[simp] theorem length_le64bytes (w : DWord) : (le64bytes w).length = 8 := rfl

@[simp] theorem length_be64bytes (w : DWord) : (be64bytes w).length = 8 := rfl

/-- Reading back a little-endian serialization. -/
@[simp] theorem le32_le32bytes (w : Word) : le32 (le32bytes w) 0 = w := by
  have := w.isLt
  refine BitVec.eq_of_toNat_eq ?_
  rw [le32_toNat]
  simp only [byteAt, le32bytes, List.getD_cons_zero, List.getD_cons_succ, Nat.zero_add, BitVec.extractLsb'_toNat,
    Nat.shiftRight_eq_div_pow]
  omega

theorem hiLane_toNat (w : DWord) : (hiLane w).toNat = w.toNat / 2 ^ 32 := by
  have := w.isLt
  simp only [hiLane, BitVec.extractLsb'_toNat, Nat.shiftRight_eq_div_pow]
  omega

theorem loLane_toNat (w : DWord) : (loLane w).toNat = w.toNat % 2 ^ 32 := by
  simp [loLane]

theorem ofLanes_toNat (hi lo : Word) : (ofLanes hi lo).toNat = hi.toNat * 2 ^ 32 + lo.toNat :=
  toNat_append_add hi lo

@[simp] theorem hiLane_ofLanes (hi lo : Word) : hiLane (ofLanes hi lo) = hi := by
  have := lo.isLt
  have := hi.isLt
  exact BitVec.eq_of_toNat_eq (by rw [hiLane_toNat, ofLanes_toNat]; omega)

@[simp] theorem loLane_ofLanes (hi lo : Word) : loLane (ofLanes hi lo) = lo := by
  have := lo.isLt
  exact BitVec.eq_of_toNat_eq (by rw [loLane_toNat, ofLanes_toNat]; omega)

@[simp] theorem ofLanes_lanes (w : DWord) : ofLanes (hiLane w) (loLane w) = w := by
  exact BitVec.eq_of_toNat_eq (by rw [ofLanes_toNat, hiLane_toNat, loLane_toNat]; omega)

@[simp] theorem length_xorBytes (a b : List Byte) : (xorBytes a b).length = min a.length b.length := by
  simp [xorBytes]

end Sys2Proof.Machine
end

