-- ==== Sys2Proof/Machine/DriverCalls.lean ====
section
/-! DEFINITION. The driver protocol performed on the machine (46_host_protocol.md): each call takes steps of `step`, reads STATUS and
the results as the protocol says, and fails where the block rejects a command. The step does not use this file. -/

namespace Sys2Proof.Machine.Driver

/-- A driver call: from a state of the machine to the state it leaves and its result. The events still to come in the state stay
behind those of the call. -/
abbrev Call (α : Type) := State → State × Except Failure α

/-- A result, without an access. -/
def Call.done {α : Type} (a : α) : Call α := fun s => (s, .ok a)

/-- A failure, without a further access. -/
def Call.fail {α : Type} (e : Failure) : Call α := fun s => (s, .error e)

/-- A call, and after its success another; a failure ends both. -/
def Call.andThen {α β : Type} (c : Call α) (f : α → Call β) : Call β := fun s =>
  match c s with
  | (t, .ok a) => f a t
  | (t, .error e) => (t, .error e)

/-! ## Accesses (30_encoding.md R99) -/

/-- The events, one step each. The responses to writes are not looked at (log entry 15). -/
def perform : List Event → Call Unit
  | [] => .done ()
  | e :: es => fun s =>
    match step { s with inbox := e :: s.inbox } with
    | .next t => perform es t
    | _ => (s, .error .stopped)

/-- The value the last read answered. -/
def lastWord : Call Word := fun s =>
  match s.replies with
  | .value v :: _ => (s, .ok v)
  | .busError off :: _ => (s, .error (.busError off))
  | _ => (s, .error .stopped)

/-- `rd OFF` with its result. -/
def readWord (off : Nat) : Call Word := (perform [rd off]).andThen fun _ => lastWord

/-- `rd` at each offset in order, with the results. -/
def readWords : List Nat → Call (List Word)
  | [] => .done []
  | off :: offs => (readWord off).andThen fun v => (readWords offs).andThen fun vs => .done (v :: vs)

/-- `rdbuf BASE, n` with its results. -/
def readBuf (base n : Nat) : Call (List Word) := readWords ((List.range n).map fun k => base + 4 * k)

/-- `wait`: reads of STATUS until BUSY = 0, and the STATUS read last. The unit's turn comes after `latency` of them have found BUSY = 1
(70_reset_and_hazards.md R392). -/
def waitIdle : (latency : Nat) → Call Word
  | 0 => (perform [.unit]).andThen fun _ => readWord 0x08
  | n + 1 => (readWord 0x08).andThen fun status => if status.getLsbD 0 then waitIdle n else .done status

/-- `run <mnemonic>`, with the STATUS that ended the wait. -/
def runWait (latency : Nat) (i : Instr) : Call Word := (perform [cmd i]).andThen fun _ => waitIdle latency

/-- `run <mnemonic>`; if STATUS.ERR = 1, failure with ERRCODE (R318, R327 step 4). -/
def runChecked (latency : Nat) (i : Instr) : Call Unit :=
  (runWait latency i).andThen fun status =>
    if status.getLsbD 2 then .fail (.command (status.extractLsb' 8 8)) else .done ()

/-! ## SHA-2 (R311, R315, R316, R324 to R326) -/

/-- `init` (R311). -/
def sha2InitCall (d : Sha2Engine) (latency : Nat) : Call HashCtx :=
  (runWait latency d.init).andThen fun _ => .done ⟨[], 0⟩

/-- The blocks, each loaded and compressed (R311). -/
def sha2CompressCall (d : Sha2Engine) (latency : Nat) : List (List Byte) → Call Unit
  | [] => .done ()
  | block :: blocks =>
    (perform (ldbuf d.bufBase (d.blockBytes / 4) block)).andThen fun _ =>
      (runWait latency d.compress).andThen fun _ => sha2CompressCall d latency blocks

/-- `update(s)` (R311). -/
def sha2UpdateCall (d : Sha2Engine) (latency : Nat) (c : HashCtx) (s : List Byte) : Call HashCtx :=
  let u := sha2Update d c s
  (sha2CompressCall d latency u.2).andThen fun _ => .done u.1

/-- `final` (R313, R315): the padding is compressed, the digest read big-endian (R316; the high lane of an H512 word comes first), the
chaining value zeroed. -/
def sha2FinalCall (d : Sha2Engine) (latency : Nat) (c : HashCtx) : Call (HashCtx × List Byte) :=
  let u := sha2Final d c
  (sha2CompressCall d latency u.2).andThen fun _ =>
    (readBuf d.digestBase (d.digestBytes / 4)).andThen fun ws =>
      (runWait latency d.zero).andThen fun _ => .done (u.1, ws.flatMap be32bytes)

/-- `digest(bytes)` (R324). -/
def sha2DigestCall (d : Sha2Engine) (latency : Nat) (msg : List Byte) : Call (List Byte) :=
  (sha2InitCall d latency).andThen fun c =>
    (sha2UpdateCall d latency c msg).andThen fun c =>
      (sha2FinalCall d latency c).andThen fun out => .done out.2

/-- `root(a, b)`: the sizes are checked before the block is touched (R325). -/
def sha2RootCall (d : Sha2Engine) (latency : Nat) (a b : List Byte) : Call (List Byte) :=
  if a.length = d.digestBytes ∧ b.length = d.digestBytes then sha2DigestCall d latency (a ++ b) else .fail .contract

/-- `mac(data, key)`: HMAC, which drives the engine through `digest` (R326). -/
def sha2MacCall (d : Sha2Engine) (latency : Nat) (data key : List Byte) : Call (List Byte) :=
  (if key.length > d.blockBytes then sha2DigestCall d latency key else .done key).andThen fun k =>
    let k0 := k ++ List.replicate (d.blockBytes - k.length) 0
    (sha2DigestCall d latency (padWith 0x36 k0 ++ data)).andThen fun inner =>
      sha2DigestCall d latency (padWith 0x5C k0 ++ inner)

/-! ## BLAKE2b (R318 to R322, R324 to R326) -/

/-- `init(nn, key)` (R318). A length above 255 has no command word (30_encoding.md R98): the call fails with the source's error for it
before the block is touched (log entry 14). -/
def b2InitCall (latency nn : Nat) (key : List Byte) : Call B2Ctx :=
  if nn < 256 ∧ key.length < 256 then
    (runChecked latency (.blake2bInit (BitVec.ofNat 8 nn) (BitVec.ofNat 8 key.length))).andThen fun _ => .done (b2InitCtx nn key)
  else .fail (.command ((blake2bInitVerdict nn key.length).elim 0 CmdError.code))

/-- The compressions, in order (R319, R321). -/
def b2CompressCall (latency : Nat) : List B2Call → Call Unit
  | [] => .done ()
  | k :: ks =>
    (perform (ldbuf b2mBase 32 k.block)).andThen fun _ =>
      (runWait latency (.blake2bCompress (BitVec.ofNat 8 k.len) k.f)).andThen fun _ => b2CompressCall latency ks

/-- `update(s)` (R319). -/
def b2UpdateCall (latency : Nat) (c : B2Ctx) (s : List Byte) : Call B2Ctx :=
  let u := b2Update c s
  (b2CompressCall latency u.2).andThen fun _ => .done u.1

/-- `final` (R321): on a finalized context the stored digest, without touching the block; otherwise the last compression, and the first
nn bytes of the chaining value, little-endian (R322; the low lane of a B2H word comes first), which are stored and returned. -/
def b2FinalCall (latency : Nat) (c : B2Ctx) : Call (B2Ctx × List Byte) :=
  if c.fin then .done (c, c.digest)
  else
    (b2CompressCall latency [b2LastCall c]).andThen fun _ =>
      (readBuf 0x300 16).andThen fun ws =>
        let digest := (ws.flatMap le32bytes).take c.nn
        .done ({ c with fin := true, digest := digest }, digest)

/-- `digest(bytes)` with the caller's size and key, which is also `mac(data, key, size)` (R324, R326). -/
def b2DigestCall (latency nn : Nat) (key msg : List Byte) : Call (List Byte) :=
  (b2InitCall latency nn key).andThen fun c =>
    (b2UpdateCall latency c msg).andThen fun c =>
      (b2FinalCall latency c).andThen fun out => .done out.2

/-- `root(left, right, size)`: the sizes are checked before the block is touched (R325). -/
def b2RootCall (latency : Nat) (left right : List Byte) (size : Nat) : Call (List Byte) :=
  if left.length = size ∧ right.length = size then b2DigestCall latency size [] (left ++ right) else .fail .contract

/-! ## Scrypt (R327) -/

/-- Steps 3 to 5 of `derive`: load, run ROMIX, fail with ERRCODE if it was rejected, otherwise read XBUF back. -/
def scryptMixCall (latency N r p : Nat) (B : List Byte) : Call (List Byte) :=
  (perform (scryptLoad N r p B)).andThen fun _ =>
    (runChecked latency .romix).andThen fun _ =>
      (readBuf xbufBase (32 * r * p)).andThen fun ws => .done (ws.flatMap le32bytes)

/-- `derive(password, salt, N, r, p, dkLen)`; PBKDF2 is external (R330). -/
def scryptDeriveCall (latency : Nat) (password salt : List Byte) (N r p dkLen : Nat) : Call (List Byte) :=
  match scryptCheck N r p with
  | some e => .fail (failureOf e)
  | none =>
    (scryptMixCall latency N r p (pbkdf2 password salt (p * 128 * r))).andThen fun B => .done (pbkdf2 password B dkLen)

end Sys2Proof.Machine.Driver
end

