-- ==== Sys2Proof/Laws/Driver.lean ====
section
/-! SUPPORT. What a driver call can do, said once: how calls compose, where each fails, and the sizes of the digests
(46_host_protocol.md). -/

namespace Sys2Proof.Machine.Driver

/-! ## Composition -/

@[simp] theorem done_andThen {α β : Type} (a : α) (f : α → Call β) : (Call.done a).andThen f = f a := rfl

@[simp] theorem fail_andThen {α β : Type} (e : Failure) (f : α → Call β) : (Call.fail e : Call α).andThen f = Call.fail e := rfl

theorem andThen_of_ok {α β : Type} {c : Call α} {f : α → Call β} {s t : State} {a : α} (h : c s = (t, .ok a)) :
    c.andThen f s = f a t := by
  simp [Call.andThen, h]

/-- A failed call ends the protocol: nothing after it is performed. -/
theorem andThen_of_error {α β : Type} {c : Call α} {f : α → Call β} {s t : State} {e : Failure} (h : c s = (t, .error e)) :
    c.andThen f s = (t, .error e) := by
  simp [Call.andThen, h]

/-- The events of a list are performed in order. -/
theorem perform_append (es fs : List Event) : perform (es ++ fs) = (perform es).andThen fun _ => perform fs := by
  induction es with
  | nil => rfl
  | cons e es ih =>
    funext s
    simp only [List.cons_append, perform, Call.andThen, ih]
    cases step { s with inbox := e :: s.inbox } <;> rfl

/-! ## Where a call fails -/

/-- A command whose wait ends with STATUS.ERR = 1 fails with ERRCODE, in the state the wait left. -/
theorem runChecked_of_err {latency : Nat} {i : Instr} {s t : State} {status : Word}
    (h : runWait latency i s = (t, .ok status)) (he : status.getLsbD 2 = true) :
    runChecked latency i s = (t, .error (.command (status.extractLsb' 8 8))) := by
  rw [runChecked, andThen_of_ok h, if_pos he]
  rfl

/-- A rejected BLAKE2b `init` fails with the block's error, and nothing else is done (R318). -/
theorem b2InitCall_of_error {latency nn : Nat} {key : List Byte} {s t : State} {e : Failure} (hn : nn < 256) (hk : key.length < 256)
    (h : runChecked latency (.blake2bInit (BitVec.ofNat 8 nn) (BitVec.ofNat 8 key.length)) s = (t, .error e)) :
    b2InitCall latency nn key s = (t, .error e) := by
  rw [b2InitCall, if_pos ⟨hn, hk⟩, andThen_of_error h]

/-- A second BLAKE2b `final` returns the stored digest without an access (R321). -/
theorem b2FinalCall_of_fin {latency : Nat} {c : B2Ctx} (h : c.fin = true) (s : State) :
    b2FinalCall latency c s = (s, .ok (c, c.digest)) := by
  rw [b2FinalCall, if_pos h]
  rfl

theorem b2Final_of_fin {c : B2Ctx} (h : c.fin = true) (s : Vector DWord 8 × BitVec 128) : b2Final c s = (c, s) := if_pos h

/-- `root` fails on an argument of the wrong size, whatever the digest function (R325). -/
theorem rootOf_of_wrong_size {size : Nat} {digest : List Byte → Except Failure (List Byte)} {a b : List Byte}
    (h : ¬ (a.length = size ∧ b.length = size)) : rootOf size digest a b = .error .contract := if_neg h

/-- `root` is the digest of the concatenation (R325). -/
theorem rootOf_eq {size : Nat} {digest : List Byte → Except Failure (List Byte)} {a b : List Byte}
    (ha : a.length = size) (hb : b.length = size) : rootOf size digest a b = digest (a ++ b) := if_pos ⟨ha, hb⟩

/-- `derive` fails with the error ROMIX is rejected with (R327 step 4). -/
theorem scryptDerive_of_rejected {c : Config} {N r p : Nat} {e : CmdError} (hc : scryptCheck N r p = none)
    (h : romixVerdict c N r p = some e) (password salt : List Byte) (dkLen : Nat) :
    scryptDerive c password salt N r p dkLen = .error (failureOf e) := by
  simp only [scryptDerive, hc, h]

/-! ## Sizes -/

theorem length_flatMap_of_const {α : Type} {n : Nat} {f : α → List Byte} (h : ∀ a, (f a).length = n) (l : List α) :
    (l.flatMap f).length = n * l.length := by
  induction l with
  | nil => rfl
  | cons a l ih =>
    rw [List.flatMap_cons, List.length_append, h, ih, List.length_cons, Nat.mul_succ, Nat.add_comm]

/-- A BLAKE2b digest has exactly nn bytes (R322). -/
theorem length_b2Serialize {nn : Nat} (h : nn ≤ 64) (H : Vector DWord 8) : (b2Serialize nn H).length = nn := by
  rw [b2Serialize, List.length_take, length_flatMap_of_const length_le64bytes, Vector.length_toList]
  omega

@[simp] theorem length_sha256Serialize (H : Vector Word 8) : (sha256Serialize H).length = 32 := by
  rw [sha256Serialize, length_flatMap_of_const length_be32bytes, Vector.length_toList]

@[simp] theorem length_sha512Serialize (H : Vector DWord 8) : (sha512Serialize H).length = 64 := by
  rw [sha512Serialize, length_flatMap_of_const length_be64bytes, Vector.length_toList]

@[simp] theorem length_padWith (pad : Byte) (k : List Byte) : (padWith pad k).length = k.length := by simp [padWith]

end Sys2Proof.Machine.Driver
end

