-- ==== Sys2Proof/Laws/Memory.lean ====
section
/-! SUPPORT. The laws of byte memory: what a read sees after a write, and that every operation keeps the canonical form. -/

namespace Sys2Proof.Machine

theorem Memory.read_append (m n : Memory) (a : Nat) :
    Memory.read (m ++ n) a = if a ∈ m.map Prod.fst then Memory.read m a else Memory.read n a := by
  induction m with
  | nil => simp
  | cons c m ih =>
    by_cases h : c.1 = a
    · simp [Memory.read, h]
    · simp [h, ih, Memory.read, Ne.symm h]

theorem Memory.read_eq_zero (m : Memory) (a : Nat) (h : a ∉ m.map Prod.fst) : m.read a = 0 := by
  induction m with
  | nil => rfl
  | cons c m ih =>
    simp only [List.map_cons, List.mem_cons, not_or] at h
    simp [Memory.read, Ne.symm h.1, ih h.2]

theorem Memory.read_filter (m : Memory) (p : Nat → Bool) (a : Nat) (h : p a = true) :
    Memory.read (m.filter fun c => p c.1) a = m.read a := by
  induction m with
  | nil => rfl
  | cons c m ih =>
    by_cases hc : p c.1
    · simp [hc, Memory.read, ih]
    · have : c.1 ≠ a := fun e => hc (e ▸ h)
      simp [hc, Memory.read, ih, this]

@[simp] theorem Memory.read_below {m : Memory} {n a : Nat} (h : a < n) : (m.below n).read a = m.read a :=
  m.read_filter (fun k => decide (k < n)) a (by simpa)

@[simp] theorem Memory.read_above {m : Memory} {n a : Nat} (h : n ≤ a) : (m.above n).read a = m.read a :=
  m.read_filter (fun k => decide (n ≤ k)) a (by simpa)

theorem Memory.mem_below {m : Memory} {n : Nat} {c : Host.Cell} : c ∈ m.below n ↔ c ∈ m ∧ c.1 < n := by
  simp [Memory.below]

theorem Memory.mem_above {m : Memory} {n : Nat} {c : Host.Cell} : c ∈ m.above n ↔ c ∈ m ∧ n ≤ c.1 := by
  simp [Memory.above]

/-- The cells of a byte string lie in its range and hold no zero. -/
theorem Memory.mem_cells {base : Nat} {bs : List Byte} {c : Host.Cell} (h : c ∈ Memory.cells base bs) :
    base ≤ c.1 ∧ c.1 < base + bs.length ∧ c.2 ≠ 0 := by
  induction bs generalizing base with
  | nil => simp [Memory.cells] at h
  | cons b bs ih =>
    simp only [Memory.cells] at h
    split at h
    · obtain ⟨h1, h2, h3⟩ := ih h
      exact ⟨by omega, by simp only [List.length_cons]; omega, h3⟩
    · rename_i hb
      rcases List.mem_cons.1 h with rfl | h
      · exact ⟨le_rfl, by simp, hb⟩
      · obtain ⟨h1, h2, h3⟩ := ih h
        exact ⟨by omega, by simp only [List.length_cons]; omega, h3⟩

theorem Memory.read_cells (base : Nat) (bs : List Byte) (a : Nat) :
    Memory.read (Memory.cells base bs) a = if base ≤ a then bs.getD (a - base) 0 else 0 := by
  induction bs generalizing base with
  | nil => simp [Memory.cells, Memory.read]
  | cons b bs ih =>
    have step : Memory.read (Memory.cells base (b :: bs)) a =
        if a = base then b else Memory.read (Memory.cells (base + 1) bs) a := by
      simp only [Memory.cells]
      split
      · rename_i hb
        split
        · rename_i h
          rw [ih, if_neg (by omega), hb]
        · rfl
      · by_cases h : a = base
        · simp [Memory.read, h]
        · simp [Memory.read, h, Ne.symm h]
    rw [step, ih]
    rcases Nat.lt_trichotomy a base with h | h | h
    · rw [if_neg (by omega), if_neg (by omega), if_neg (by omega)]
    · simp [h]
    · have : a - base = (a - (base + 1)) + 1 := by omega
      rw [if_neg (by omega), if_pos (by omega), if_pos (by omega), this]
      simp

/-- Everything a read sees after a write: the stored bytes inside the range, the old memory outside it. -/
theorem Memory.read_writeBytes (m : Memory) (base : Nat) (bs : List Byte) (a : Nat) :
    (m.writeBytes base bs).read a =
      if base ≤ a ∧ a < base + bs.length then bs.getD (a - base) 0 else m.read a := by
  unfold Memory.writeBytes
  rw [List.append_assoc, Memory.read_append, Memory.read_append]
  by_cases h1 : a < base
  · have hn : ¬ (base ≤ a ∧ a < base + bs.length) := by omega
    rw [if_neg hn]
    by_cases hk : a ∈ (m.below base).map Prod.fst
    · rw [if_pos hk]
      exact Memory.read_below h1
    · rw [if_neg hk]
      have hm : a ∉ m.map Prod.fst := by
        intro hin
        obtain ⟨c, hc, rfl⟩ := List.mem_map.1 hin
        exact hk (List.mem_map.2 ⟨c, Memory.mem_below.2 ⟨hc, h1⟩, rfl⟩)
      have hc : a ∉ (Memory.cells base bs).map Prod.fst := by
        intro hin
        obtain ⟨c, hc, rfl⟩ := List.mem_map.1 hin
        have := Memory.mem_cells hc
        omega
      rw [if_neg hc, m.read_eq_zero a hm]
      refine Memory.read_eq_zero _ _ fun hin => ?_
      obtain ⟨c, hd, rfl⟩ := List.mem_map.1 hin
      exact hm (List.mem_map.2 ⟨c, (Memory.mem_above.1 hd).1, rfl⟩)
  · have hb : a ∉ (m.below base).map Prod.fst := by
      intro hin
      obtain ⟨c, hc, rfl⟩ := List.mem_map.1 hin
      exact h1 (Memory.mem_below.1 hc).2
    rw [if_neg hb]
    by_cases h2 : a < base + bs.length
    · rw [if_pos (show base ≤ a ∧ a < base + bs.length from ⟨by omega, h2⟩)]
      by_cases hk : a ∈ (Memory.cells base bs).map Prod.fst
      · rw [if_pos hk, Memory.read_cells, if_pos (by omega)]
      · rw [if_neg hk]
        have hz : Memory.read (Memory.cells base bs) a = 0 := Memory.read_eq_zero _ _ hk
        rw [Memory.read_cells, if_pos (by omega)] at hz
        rw [hz]
        refine Memory.read_eq_zero _ _ fun hin => ?_
        obtain ⟨c, hc, rfl⟩ := List.mem_map.1 hin
        have := (Memory.mem_above.1 hc).2
        omega
    · have hc : a ∉ (Memory.cells base bs).map Prod.fst := by
        intro hin
        obtain ⟨c, hc, rfl⟩ := List.mem_map.1 hin
        have := Memory.mem_cells hc
        omega
      rw [if_neg hc, if_neg (by omega)]
      exact Memory.read_above (by omega)

@[simp] theorem Memory.length_readBytes (m : Memory) (base n : Nat) : (m.readBytes base n).length = n := by
  simp [Memory.readBytes]

/-- A range is read byte by byte. -/
theorem Memory.readBytes_eq (m : Memory) (base n : Nat) :
    m.readBytes base n = (List.range n).map fun i => m.read (base + i) := by
  refine List.map_congr_left fun i hi => ?_
  have : i < n := by simpa using hi
  rw [Memory.read_below (by omega), Memory.read_above (by omega)]

theorem Memory.getD_readBytes (m : Memory) (base n i : Nat) :
    (m.readBytes base n).getD i 0 = if i < n then m.read (base + i) else 0 := by
  rw [Memory.readBytes_eq]
  by_cases h : i < n <;> simp [List.getD, h]

/-- A range read after it was written gives the bytes written. -/
theorem Memory.readBytes_writeBytes_same (m : Memory) (base : Nat) (bs : List Byte) :
    (m.writeBytes base bs).readBytes base bs.length = bs := by
  refine List.ext_getElem (by simp) fun i h1 h2 => ?_
  have h := Memory.getD_readBytes (m.writeBytes base bs) base bs.length i
  rw [Memory.read_writeBytes, if_pos h2, if_pos (by omega)] at h
  simpa [List.getD, h1, h2] using h

/-- A range disjoint from the one written reads as before. -/
theorem Memory.readBytes_writeBytes_disjoint (m : Memory) (base : Nat) (bs : List Byte) (a n : Nat)
    (h : a + n ≤ base ∨ base + bs.length ≤ a) :
    (m.writeBytes base bs).readBytes a n = m.readBytes a n := by
  rw [Memory.readBytes_eq, Memory.readBytes_eq]
  refine List.map_congr_left fun i hi => ?_
  have : i < n := by simpa using hi
  rw [Memory.read_writeBytes, if_neg (by omega)]

/-! ## The canonical form -/

/-- The canonical form, said of all pairs: rising addresses, and no zero listed. -/
theorem Memory.wf_iff (m : Memory) :
    m.wf = true ↔ m.Pairwise (fun c d => c.1 < d.1) ∧ ∀ c ∈ m, c.2 ≠ 0 := by
  induction m with
  | nil => simp [Memory.wf]
  | cons c m ih =>
    cases m with
    | nil => simp [Memory.wf]
    | cons d m =>
      rw [show Memory.wf (c :: d :: m) = (c.2 != 0 && decide (c.1 < d.1) && Memory.wf (d :: m)) from rfl,
        Bool.and_eq_true, ih, Bool.and_eq_true, bne_iff_ne, decide_eq_true_eq]
      constructor
      · rintro ⟨⟨h0, h1⟩, hp, hz⟩
        refine ⟨List.pairwise_cons.2 ⟨fun e he => ?_, hp⟩, fun e he => ?_⟩
        · rcases List.mem_cons.1 he with rfl | he
          · exact h1
          · exact h1.trans ((List.pairwise_cons.1 hp).1 e he)
        · rcases List.mem_cons.1 he with rfl | he
          · exact h0
          · exact hz e he
      · rintro ⟨hp, hz⟩
        obtain ⟨hc, hp⟩ := List.pairwise_cons.1 hp
        exact ⟨⟨hz c (by simp), hc d (by simp)⟩, hp, fun e he => hz e (List.mem_cons_of_mem _ he)⟩

theorem Memory.pairwise_cells (base : Nat) (bs : List Byte) :
    (Memory.cells base bs).Pairwise (fun c d => c.1 < d.1) := by
  induction bs generalizing base with
  | nil => simp [Memory.cells]
  | cons b bs ih =>
    simp only [Memory.cells]
    split
    · exact ih _
    · refine List.pairwise_cons.2 ⟨fun d hd => ?_, ih _⟩
      have := Memory.mem_cells hd
      omega

/-- Every write keeps the canonical form. -/
theorem Memory.wf_writeBytes {m : Memory} (h : m.wf = true) (base : Nat) (bs : List Byte) :
    (m.writeBytes base bs).wf = true := by
  obtain ⟨hp, hz⟩ := (Memory.wf_iff m).1 h
  refine (Memory.wf_iff _).2 ⟨?_, fun c hc => ?_⟩
  · unfold Memory.writeBytes
    refine List.pairwise_append.2 ⟨List.pairwise_append.2 ⟨hp.filter _, Memory.pairwise_cells _ _, ?_⟩, hp.filter _, ?_⟩
    · intro c hc d hd
      have := (Memory.mem_below.1 hc).2
      have := Memory.mem_cells hd
      omega
    · intro c hc d hd
      have := (Memory.mem_above.1 hd).2
      rcases List.mem_append.1 hc with hc | hc
      · have := (Memory.mem_below.1 hc).2
        omega
      · have := Memory.mem_cells hc
        omega
  · unfold Memory.writeBytes at hc
    rcases List.mem_append.1 hc with hc | hc
    · rcases List.mem_append.1 hc with hc | hc
      · exact hz c (Memory.mem_below.1 hc).1
      · exact (Memory.mem_cells hc).2.2
    · exact hz c (Memory.mem_above.1 hc).1

theorem Memory.wf_writeWord {m : Memory} (h : m.wf = true) (off : Nat) (v : Word) : (m.writeWord off v).wf = true :=
  Memory.wf_writeBytes h _ _

theorem vWrite_wf {m : Memory} (h : m.wf = true) (r i : Nat) (blk : List Byte) : (vWrite m r i blk).wf = true :=
  Memory.wf_writeBytes h _ _

/-- A cell after a write was there before, or lies in the range written. -/
theorem Memory.mem_writeBytes {m : Memory} {base : Nat} {bs : List Byte} {c : Host.Cell} (h : c ∈ m.writeBytes base bs) :
    c ∈ m ∨ (base ≤ c.1 ∧ c.1 < base + bs.length) := by
  unfold Memory.writeBytes at h
  rcases List.mem_append.1 h with h | h
  · rcases List.mem_append.1 h with h | h
    · exact .inl (Memory.mem_below.1 h).1
    · exact .inr ⟨(Memory.mem_cells h).1, (Memory.mem_cells h).2.1⟩
  · exact .inl (Memory.mem_above.1 h).1

end Sys2Proof.Machine
end

