-- ==== Sys2Proof/Laws/State.lean ====
section
/-! SUPPORT. One lemma per field per named update of the state, so that no later proof unfolds an update. -/

namespace Sys2Proof.Machine

/-! ## `State.accept` -/

@[simp] theorem State.accept_ie (s : State) (w : Word) : (s.accept w).ie = s.ie := rfl
@[simp] theorem State.accept_busy (s : State) (w : Word) : (s.accept w).busy = true := rfl
@[simp] theorem State.accept_done (s : State) (w : Word) : (s.accept w).done = s.done := rfl
@[simp] theorem State.accept_err (s : State) (w : Word) : (s.accept w).err = s.err := rfl
@[simp] theorem State.accept_busywr (s : State) (w : Word) : (s.accept w).busywr = s.busywr := rfl
@[simp] theorem State.accept_b2fin (s : State) (w : Word) : (s.accept w).b2fin = s.b2fin := rfl
@[simp] theorem State.accept_errcode (s : State) (w : Word) : (s.accept w).errcode = s.errcode := rfl
@[simp] theorem State.accept_errcmd (s : State) (w : Word) : (s.accept w).errcmd = s.errcmd := rfl
@[simp] theorem State.accept_scryptN (s : State) (w : Word) : (s.accept w).scryptN = s.scryptN := rfl
@[simp] theorem State.accept_scryptR (s : State) (w : Word) : (s.accept w).scryptR = s.scryptR := rfl
@[simp] theorem State.accept_scryptP (s : State) (w : Word) : (s.accept w).scryptP = s.scryptP := rfl
@[simp] theorem State.accept_h256 (s : State) (w : Word) : (s.accept w).h256 = s.h256 := rfl
@[simp] theorem State.accept_h512 (s : State) (w : Word) : (s.accept w).h512 = s.h512 := rfl
@[simp] theorem State.accept_b2h (s : State) (w : Word) : (s.accept w).b2h = s.b2h := rfl
@[simp] theorem State.accept_b2t (s : State) (w : Word) : (s.accept w).b2t = s.b2t := rfl
@[simp] theorem State.accept_mem (s : State) (w : Word) : (s.accept w).mem = s.mem := rfl
@[simp] theorem State.accept_pending (s : State) (w : Word) : (s.accept w).pending = some w := rfl
@[simp] theorem State.accept_scratch (s : State) (w : Word) : (s.accept w).scratch = s.scratch := rfl
@[simp] theorem State.accept_cfg (s : State) (w : Word) : (s.accept w).cfg = s.cfg := rfl
@[simp] theorem State.accept_inbox (s : State) (w : Word) : (s.accept w).inbox = s.inbox := rfl
@[simp] theorem State.accept_replies (s : State) (w : Word) : (s.accept w).replies = s.replies := rfl

/-! ## `State.release` -/

@[simp] theorem State.release_ie (s : State) : (s.release).ie = s.ie := rfl
@[simp] theorem State.release_busy (s : State) : (s.release).busy = false := rfl
@[simp] theorem State.release_done (s : State) : (s.release).done = s.done := rfl
@[simp] theorem State.release_err (s : State) : (s.release).err = s.err := rfl
@[simp] theorem State.release_busywr (s : State) : (s.release).busywr = s.busywr := rfl
@[simp] theorem State.release_b2fin (s : State) : (s.release).b2fin = s.b2fin := rfl
@[simp] theorem State.release_errcode (s : State) : (s.release).errcode = s.errcode := rfl
@[simp] theorem State.release_errcmd (s : State) : (s.release).errcmd = s.errcmd := rfl
@[simp] theorem State.release_scryptN (s : State) : (s.release).scryptN = s.scryptN := rfl
@[simp] theorem State.release_scryptR (s : State) : (s.release).scryptR = s.scryptR := rfl
@[simp] theorem State.release_scryptP (s : State) : (s.release).scryptP = s.scryptP := rfl
@[simp] theorem State.release_h256 (s : State) : (s.release).h256 = s.h256 := rfl
@[simp] theorem State.release_h512 (s : State) : (s.release).h512 = s.h512 := rfl
@[simp] theorem State.release_b2h (s : State) : (s.release).b2h = s.b2h := rfl
@[simp] theorem State.release_b2t (s : State) : (s.release).b2t = s.b2t := rfl
@[simp] theorem State.release_mem (s : State) : (s.release).mem = s.mem := rfl
@[simp] theorem State.release_pending (s : State) : (s.release).pending = none := rfl
@[simp] theorem State.release_scratch (s : State) : (s.release).scratch = s.scratch := rfl
@[simp] theorem State.release_cfg (s : State) : (s.release).cfg = s.cfg := rfl
@[simp] theorem State.release_inbox (s : State) : (s.release).inbox = s.inbox := rfl
@[simp] theorem State.release_replies (s : State) : (s.release).replies = s.replies := rfl

/-! ## `State.complete` -/

@[simp] theorem State.complete_ie (s : State) : (s.complete).ie = s.ie := rfl
@[simp] theorem State.complete_busy (s : State) : (s.complete).busy = false := rfl
@[simp] theorem State.complete_done (s : State) : (s.complete).done = true := rfl
@[simp] theorem State.complete_err (s : State) : (s.complete).err = s.err := rfl
@[simp] theorem State.complete_busywr (s : State) : (s.complete).busywr = s.busywr := rfl
@[simp] theorem State.complete_b2fin (s : State) : (s.complete).b2fin = s.b2fin := rfl
@[simp] theorem State.complete_errcode (s : State) : (s.complete).errcode = s.errcode := rfl
@[simp] theorem State.complete_errcmd (s : State) : (s.complete).errcmd = s.errcmd := rfl
@[simp] theorem State.complete_scryptN (s : State) : (s.complete).scryptN = s.scryptN := rfl
@[simp] theorem State.complete_scryptR (s : State) : (s.complete).scryptR = s.scryptR := rfl
@[simp] theorem State.complete_scryptP (s : State) : (s.complete).scryptP = s.scryptP := rfl
@[simp] theorem State.complete_h256 (s : State) : (s.complete).h256 = s.h256 := rfl
@[simp] theorem State.complete_h512 (s : State) : (s.complete).h512 = s.h512 := rfl
@[simp] theorem State.complete_b2h (s : State) : (s.complete).b2h = s.b2h := rfl
@[simp] theorem State.complete_b2t (s : State) : (s.complete).b2t = s.b2t := rfl
@[simp] theorem State.complete_mem (s : State) : (s.complete).mem = s.mem := rfl
@[simp] theorem State.complete_pending (s : State) : (s.complete).pending = none := rfl
@[simp] theorem State.complete_scratch (s : State) : (s.complete).scratch = s.scratch := rfl
@[simp] theorem State.complete_cfg (s : State) : (s.complete).cfg = s.cfg := rfl
@[simp] theorem State.complete_inbox (s : State) : (s.complete).inbox = s.inbox := rfl
@[simp] theorem State.complete_replies (s : State) : (s.complete).replies = s.replies := rfl

/-! ## `State.reject` -/

@[simp] theorem State.reject_ie (s : State) (e : CmdError) (w : Word) : (s.reject e w).ie = s.ie := rfl
@[simp] theorem State.reject_busy (s : State) (e : CmdError) (w : Word) : (s.reject e w).busy = s.busy := rfl
@[simp] theorem State.reject_done (s : State) (e : CmdError) (w : Word) : (s.reject e w).done = true := rfl
@[simp] theorem State.reject_err (s : State) (e : CmdError) (w : Word) : (s.reject e w).err = true := rfl
@[simp] theorem State.reject_busywr (s : State) (e : CmdError) (w : Word) : (s.reject e w).busywr = s.busywr := rfl
@[simp] theorem State.reject_b2fin (s : State) (e : CmdError) (w : Word) : (s.reject e w).b2fin = s.b2fin := rfl
@[simp] theorem State.reject_errcode (s : State) (e : CmdError) (w : Word) : (s.reject e w).errcode = e.code := rfl
@[simp] theorem State.reject_errcmd (s : State) (e : CmdError) (w : Word) : (s.reject e w).errcmd = w := rfl
@[simp] theorem State.reject_scryptN (s : State) (e : CmdError) (w : Word) : (s.reject e w).scryptN = s.scryptN := rfl
@[simp] theorem State.reject_scryptR (s : State) (e : CmdError) (w : Word) : (s.reject e w).scryptR = s.scryptR := rfl
@[simp] theorem State.reject_scryptP (s : State) (e : CmdError) (w : Word) : (s.reject e w).scryptP = s.scryptP := rfl
@[simp] theorem State.reject_h256 (s : State) (e : CmdError) (w : Word) : (s.reject e w).h256 = s.h256 := rfl
@[simp] theorem State.reject_h512 (s : State) (e : CmdError) (w : Word) : (s.reject e w).h512 = s.h512 := rfl
@[simp] theorem State.reject_b2h (s : State) (e : CmdError) (w : Word) : (s.reject e w).b2h = s.b2h := rfl
@[simp] theorem State.reject_b2t (s : State) (e : CmdError) (w : Word) : (s.reject e w).b2t = s.b2t := rfl
@[simp] theorem State.reject_mem (s : State) (e : CmdError) (w : Word) : (s.reject e w).mem = s.mem := rfl
@[simp] theorem State.reject_pending (s : State) (e : CmdError) (w : Word) : (s.reject e w).pending = s.pending := rfl
@[simp] theorem State.reject_scratch (s : State) (e : CmdError) (w : Word) : (s.reject e w).scratch = s.scratch := rfl
@[simp] theorem State.reject_cfg (s : State) (e : CmdError) (w : Word) : (s.reject e w).cfg = s.cfg := rfl
@[simp] theorem State.reject_inbox (s : State) (e : CmdError) (w : Word) : (s.reject e w).inbox = s.inbox := rfl
@[simp] theorem State.reject_replies (s : State) (e : CmdError) (w : Word) : (s.reject e w).replies = s.replies := rfl

/-! ## `State.clearErr` -/

@[simp] theorem State.clearErr_ie (s : State) : (s.clearErr).ie = s.ie := rfl
@[simp] theorem State.clearErr_busy (s : State) : (s.clearErr).busy = s.busy := rfl
@[simp] theorem State.clearErr_done (s : State) : (s.clearErr).done = s.done := rfl
@[simp] theorem State.clearErr_err (s : State) : (s.clearErr).err = false := rfl
@[simp] theorem State.clearErr_busywr (s : State) : (s.clearErr).busywr = s.busywr := rfl
@[simp] theorem State.clearErr_b2fin (s : State) : (s.clearErr).b2fin = s.b2fin := rfl
@[simp] theorem State.clearErr_errcode (s : State) : (s.clearErr).errcode = 0 := rfl
@[simp] theorem State.clearErr_errcmd (s : State) : (s.clearErr).errcmd = 0 := rfl
@[simp] theorem State.clearErr_scryptN (s : State) : (s.clearErr).scryptN = s.scryptN := rfl
@[simp] theorem State.clearErr_scryptR (s : State) : (s.clearErr).scryptR = s.scryptR := rfl
@[simp] theorem State.clearErr_scryptP (s : State) : (s.clearErr).scryptP = s.scryptP := rfl
@[simp] theorem State.clearErr_h256 (s : State) : (s.clearErr).h256 = s.h256 := rfl
@[simp] theorem State.clearErr_h512 (s : State) : (s.clearErr).h512 = s.h512 := rfl
@[simp] theorem State.clearErr_b2h (s : State) : (s.clearErr).b2h = s.b2h := rfl
@[simp] theorem State.clearErr_b2t (s : State) : (s.clearErr).b2t = s.b2t := rfl
@[simp] theorem State.clearErr_mem (s : State) : (s.clearErr).mem = s.mem := rfl
@[simp] theorem State.clearErr_pending (s : State) : (s.clearErr).pending = s.pending := rfl
@[simp] theorem State.clearErr_scratch (s : State) : (s.clearErr).scratch = s.scratch := rfl
@[simp] theorem State.clearErr_cfg (s : State) : (s.clearErr).cfg = s.cfg := rfl
@[simp] theorem State.clearErr_inbox (s : State) : (s.clearErr).inbox = s.inbox := rfl
@[simp] theorem State.clearErr_replies (s : State) : (s.clearErr).replies = s.replies := rfl

/-! ## `State.clearDone` -/

@[simp] theorem State.clearDone_ie (s : State) : (s.clearDone).ie = s.ie := rfl
@[simp] theorem State.clearDone_busy (s : State) : (s.clearDone).busy = s.busy := rfl
@[simp] theorem State.clearDone_done (s : State) : (s.clearDone).done = false := rfl
@[simp] theorem State.clearDone_err (s : State) : (s.clearDone).err = s.err := rfl
@[simp] theorem State.clearDone_busywr (s : State) : (s.clearDone).busywr = s.busywr := rfl
@[simp] theorem State.clearDone_b2fin (s : State) : (s.clearDone).b2fin = s.b2fin := rfl
@[simp] theorem State.clearDone_errcode (s : State) : (s.clearDone).errcode = s.errcode := rfl
@[simp] theorem State.clearDone_errcmd (s : State) : (s.clearDone).errcmd = s.errcmd := rfl
@[simp] theorem State.clearDone_scryptN (s : State) : (s.clearDone).scryptN = s.scryptN := rfl
@[simp] theorem State.clearDone_scryptR (s : State) : (s.clearDone).scryptR = s.scryptR := rfl
@[simp] theorem State.clearDone_scryptP (s : State) : (s.clearDone).scryptP = s.scryptP := rfl
@[simp] theorem State.clearDone_h256 (s : State) : (s.clearDone).h256 = s.h256 := rfl
@[simp] theorem State.clearDone_h512 (s : State) : (s.clearDone).h512 = s.h512 := rfl
@[simp] theorem State.clearDone_b2h (s : State) : (s.clearDone).b2h = s.b2h := rfl
@[simp] theorem State.clearDone_b2t (s : State) : (s.clearDone).b2t = s.b2t := rfl
@[simp] theorem State.clearDone_mem (s : State) : (s.clearDone).mem = s.mem := rfl
@[simp] theorem State.clearDone_pending (s : State) : (s.clearDone).pending = s.pending := rfl
@[simp] theorem State.clearDone_scratch (s : State) : (s.clearDone).scratch = s.scratch := rfl
@[simp] theorem State.clearDone_cfg (s : State) : (s.clearDone).cfg = s.cfg := rfl
@[simp] theorem State.clearDone_inbox (s : State) : (s.clearDone).inbox = s.inbox := rfl
@[simp] theorem State.clearDone_replies (s : State) : (s.clearDone).replies = s.replies := rfl

/-! ## `State.clearBusywr` -/

@[simp] theorem State.clearBusywr_ie (s : State) : (s.clearBusywr).ie = s.ie := rfl
@[simp] theorem State.clearBusywr_busy (s : State) : (s.clearBusywr).busy = s.busy := rfl
@[simp] theorem State.clearBusywr_done (s : State) : (s.clearBusywr).done = s.done := rfl
@[simp] theorem State.clearBusywr_err (s : State) : (s.clearBusywr).err = s.err := rfl
@[simp] theorem State.clearBusywr_busywr (s : State) : (s.clearBusywr).busywr = false := rfl
@[simp] theorem State.clearBusywr_b2fin (s : State) : (s.clearBusywr).b2fin = s.b2fin := rfl
@[simp] theorem State.clearBusywr_errcode (s : State) : (s.clearBusywr).errcode = s.errcode := rfl
@[simp] theorem State.clearBusywr_errcmd (s : State) : (s.clearBusywr).errcmd = s.errcmd := rfl
@[simp] theorem State.clearBusywr_scryptN (s : State) : (s.clearBusywr).scryptN = s.scryptN := rfl
@[simp] theorem State.clearBusywr_scryptR (s : State) : (s.clearBusywr).scryptR = s.scryptR := rfl
@[simp] theorem State.clearBusywr_scryptP (s : State) : (s.clearBusywr).scryptP = s.scryptP := rfl
@[simp] theorem State.clearBusywr_h256 (s : State) : (s.clearBusywr).h256 = s.h256 := rfl
@[simp] theorem State.clearBusywr_h512 (s : State) : (s.clearBusywr).h512 = s.h512 := rfl
@[simp] theorem State.clearBusywr_b2h (s : State) : (s.clearBusywr).b2h = s.b2h := rfl
@[simp] theorem State.clearBusywr_b2t (s : State) : (s.clearBusywr).b2t = s.b2t := rfl
@[simp] theorem State.clearBusywr_mem (s : State) : (s.clearBusywr).mem = s.mem := rfl
@[simp] theorem State.clearBusywr_pending (s : State) : (s.clearBusywr).pending = s.pending := rfl
@[simp] theorem State.clearBusywr_scratch (s : State) : (s.clearBusywr).scratch = s.scratch := rfl
@[simp] theorem State.clearBusywr_cfg (s : State) : (s.clearBusywr).cfg = s.cfg := rfl
@[simp] theorem State.clearBusywr_inbox (s : State) : (s.clearBusywr).inbox = s.inbox := rfl
@[simp] theorem State.clearBusywr_replies (s : State) : (s.clearBusywr).replies = s.replies := rfl

/-! ## `State.reply` -/

@[simp] theorem State.reply_ie (s : State) (r : Reply) : (s.reply r).ie = s.ie := rfl
@[simp] theorem State.reply_busy (s : State) (r : Reply) : (s.reply r).busy = s.busy := rfl
@[simp] theorem State.reply_done (s : State) (r : Reply) : (s.reply r).done = s.done := rfl
@[simp] theorem State.reply_err (s : State) (r : Reply) : (s.reply r).err = s.err := rfl
@[simp] theorem State.reply_busywr (s : State) (r : Reply) : (s.reply r).busywr = s.busywr := rfl
@[simp] theorem State.reply_b2fin (s : State) (r : Reply) : (s.reply r).b2fin = s.b2fin := rfl
@[simp] theorem State.reply_errcode (s : State) (r : Reply) : (s.reply r).errcode = s.errcode := rfl
@[simp] theorem State.reply_errcmd (s : State) (r : Reply) : (s.reply r).errcmd = s.errcmd := rfl
@[simp] theorem State.reply_scryptN (s : State) (r : Reply) : (s.reply r).scryptN = s.scryptN := rfl
@[simp] theorem State.reply_scryptR (s : State) (r : Reply) : (s.reply r).scryptR = s.scryptR := rfl
@[simp] theorem State.reply_scryptP (s : State) (r : Reply) : (s.reply r).scryptP = s.scryptP := rfl
@[simp] theorem State.reply_h256 (s : State) (r : Reply) : (s.reply r).h256 = s.h256 := rfl
@[simp] theorem State.reply_h512 (s : State) (r : Reply) : (s.reply r).h512 = s.h512 := rfl
@[simp] theorem State.reply_b2h (s : State) (r : Reply) : (s.reply r).b2h = s.b2h := rfl
@[simp] theorem State.reply_b2t (s : State) (r : Reply) : (s.reply r).b2t = s.b2t := rfl
@[simp] theorem State.reply_mem (s : State) (r : Reply) : (s.reply r).mem = s.mem := rfl
@[simp] theorem State.reply_pending (s : State) (r : Reply) : (s.reply r).pending = s.pending := rfl
@[simp] theorem State.reply_scratch (s : State) (r : Reply) : (s.reply r).scratch = s.scratch := rfl
@[simp] theorem State.reply_cfg (s : State) (r : Reply) : (s.reply r).cfg = s.cfg := rfl
@[simp] theorem State.reply_inbox (s : State) (r : Reply) : (s.reply r).inbox = s.inbox := rfl
@[simp] theorem State.reply_replies (s : State) (r : Reply) : (s.reply r).replies = r :: s.replies := rfl

/-! ## `State.setXbuf` -/

@[simp] theorem State.setXbuf_ie (s : State) (a : Nat) (bs : List Byte) : (s.setXbuf a bs).ie = s.ie := rfl
@[simp] theorem State.setXbuf_busy (s : State) (a : Nat) (bs : List Byte) : (s.setXbuf a bs).busy = s.busy := rfl
@[simp] theorem State.setXbuf_done (s : State) (a : Nat) (bs : List Byte) : (s.setXbuf a bs).done = s.done := rfl
@[simp] theorem State.setXbuf_err (s : State) (a : Nat) (bs : List Byte) : (s.setXbuf a bs).err = s.err := rfl
@[simp] theorem State.setXbuf_busywr (s : State) (a : Nat) (bs : List Byte) : (s.setXbuf a bs).busywr = s.busywr := rfl
@[simp] theorem State.setXbuf_b2fin (s : State) (a : Nat) (bs : List Byte) : (s.setXbuf a bs).b2fin = s.b2fin := rfl
@[simp] theorem State.setXbuf_errcode (s : State) (a : Nat) (bs : List Byte) : (s.setXbuf a bs).errcode = s.errcode := rfl
@[simp] theorem State.setXbuf_errcmd (s : State) (a : Nat) (bs : List Byte) : (s.setXbuf a bs).errcmd = s.errcmd := rfl
@[simp] theorem State.setXbuf_scryptN (s : State) (a : Nat) (bs : List Byte) : (s.setXbuf a bs).scryptN = s.scryptN := rfl
@[simp] theorem State.setXbuf_scryptR (s : State) (a : Nat) (bs : List Byte) : (s.setXbuf a bs).scryptR = s.scryptR := rfl
@[simp] theorem State.setXbuf_scryptP (s : State) (a : Nat) (bs : List Byte) : (s.setXbuf a bs).scryptP = s.scryptP := rfl
@[simp] theorem State.setXbuf_h256 (s : State) (a : Nat) (bs : List Byte) : (s.setXbuf a bs).h256 = s.h256 := rfl
@[simp] theorem State.setXbuf_h512 (s : State) (a : Nat) (bs : List Byte) : (s.setXbuf a bs).h512 = s.h512 := rfl
@[simp] theorem State.setXbuf_b2h (s : State) (a : Nat) (bs : List Byte) : (s.setXbuf a bs).b2h = s.b2h := rfl
@[simp] theorem State.setXbuf_b2t (s : State) (a : Nat) (bs : List Byte) : (s.setXbuf a bs).b2t = s.b2t := rfl
@[simp] theorem State.setXbuf_mem (s : State) (a : Nat) (bs : List Byte) : (s.setXbuf a bs).mem = s.mem.writeBytes (xbufBase + a) bs := rfl
@[simp] theorem State.setXbuf_pending (s : State) (a : Nat) (bs : List Byte) : (s.setXbuf a bs).pending = s.pending := rfl
@[simp] theorem State.setXbuf_scratch (s : State) (a : Nat) (bs : List Byte) : (s.setXbuf a bs).scratch = s.scratch := rfl
@[simp] theorem State.setXbuf_cfg (s : State) (a : Nat) (bs : List Byte) : (s.setXbuf a bs).cfg = s.cfg := rfl
@[simp] theorem State.setXbuf_inbox (s : State) (a : Nat) (bs : List Byte) : (s.setXbuf a bs).inbox = s.inbox := rfl
@[simp] theorem State.setXbuf_replies (s : State) (a : Nat) (bs : List Byte) : (s.setXbuf a bs).replies = s.replies := rfl

/-! ## `State.resetBlock` -/

@[simp] theorem State.resetBlock_ie (s : State) : (s.resetBlock).ie = false := rfl
@[simp] theorem State.resetBlock_busy (s : State) : (s.resetBlock).busy = false := rfl
@[simp] theorem State.resetBlock_done (s : State) : (s.resetBlock).done = false := rfl
@[simp] theorem State.resetBlock_err (s : State) : (s.resetBlock).err = false := rfl
@[simp] theorem State.resetBlock_busywr (s : State) : (s.resetBlock).busywr = false := rfl
@[simp] theorem State.resetBlock_b2fin (s : State) : (s.resetBlock).b2fin = false := rfl
@[simp] theorem State.resetBlock_errcode (s : State) : (s.resetBlock).errcode = 0 := rfl
@[simp] theorem State.resetBlock_errcmd (s : State) : (s.resetBlock).errcmd = 0 := rfl
@[simp] theorem State.resetBlock_scryptN (s : State) : (s.resetBlock).scryptN = 0 := rfl
@[simp] theorem State.resetBlock_scryptR (s : State) : (s.resetBlock).scryptR = 0 := rfl
@[simp] theorem State.resetBlock_scryptP (s : State) : (s.resetBlock).scryptP = 0 := rfl
@[simp] theorem State.resetBlock_h256 (s : State) : (s.resetBlock).h256 = Vector.replicate 8 0 := rfl
@[simp] theorem State.resetBlock_h512 (s : State) : (s.resetBlock).h512 = Vector.replicate 8 0 := rfl
@[simp] theorem State.resetBlock_b2h (s : State) : (s.resetBlock).b2h = Vector.replicate 8 0 := rfl
@[simp] theorem State.resetBlock_b2t (s : State) : (s.resetBlock).b2t = 0 := rfl
@[simp] theorem State.resetBlock_mem (s : State) : (s.resetBlock).mem = [] := rfl
@[simp] theorem State.resetBlock_pending (s : State) : (s.resetBlock).pending = none := rfl
@[simp] theorem State.resetBlock_scratch (s : State) : (s.resetBlock).scratch = [] := rfl
@[simp] theorem State.resetBlock_cfg (s : State) : (s.resetBlock).cfg = s.cfg := rfl
@[simp] theorem State.resetBlock_inbox (s : State) : (s.resetBlock).inbox = s.inbox := rfl
@[simp] theorem State.resetBlock_replies (s : State) : (s.resetBlock).replies = s.replies := rfl

end Sys2Proof.Machine
end

