-- ==== Sys2Proof/Laws/Scrypt.lean ====
section
/-! SUPPORT. The sizes of the scrypt engine's byte strings, and what ROMix leaves of the scratch table. -/

namespace Sys2Proof.Machine

theorem length_flatMap_le32bytes (l : List Word) : (l.flatMap le32bytes).length = 4 * l.length := by
  induction l with
  | nil => rfl
  | cons w l ih =>
    simp only [List.flatMap_cons, List.length_append, List.length_cons, ih, length_le32bytes]
    omega

@[simp] theorem length_salsa20_8 (B : List Byte) : (salsa20_8 B).length = 64 := by
  rw [salsa20_8, length_flatMap_le32bytes, Vector.length_toList]

theorem length_mixChunks (T : List Byte) (Bs : List (List Byte)) : (mixChunks T Bs).length = Bs.length := by
  induction Bs generalizing T with
  | nil => rfl
  | cons B Bs ih => simp [mixChunks, ih]

theorem mem_mixChunks {T : List Byte} {Bs : List (List Byte)} {Y : List Byte} (h : Y ∈ mixChunks T Bs) : Y.length = 64 := by
  induction Bs generalizing T with
  | nil => simp [mixChunks] at h
  | cons B Bs ih =>
    rcases List.mem_cons.1 h with rfl | h
    · simp
    · exact ih h

theorem evens_odds_perm {α : Type} : (l : List α) → (evens l ++ odds l).Perm l
  | [] => .refl _
  | [_] => .refl _
  | x :: y :: l => by
    simp only [evens, odds, List.cons_append]
    exact ((List.perm_middle.trans ((evens_odds_perm l).cons y)).cons x)

/-- BlockMix gives a block of the size it takes (R245). -/
@[simp] theorem length_blockmix (r : Nat) (B : List Byte) : (blockmix r B).length = 128 * r := by
  have hall : ∀ Y ∈ mixChunks (chunk B (2 * r - 1)) ((List.range (2 * r)).map (chunk B)), Y.length = 64 :=
    fun Y h => mem_mixChunks h
  have hlen : (mixChunks (chunk B (2 * r - 1)) ((List.range (2 * r)).map (chunk B))).length = 2 * r := by
    simp [length_mixChunks]
  unfold blockmix
  generalize mixChunks (chunk B (2 * r - 1)) ((List.range (2 * r)).map (chunk B)) = Y at hall hlen
  have hsum : ∀ l : List (List Byte), (∀ y ∈ l, y.length = 64) → l.flatten.length = 64 * l.length := by
    intro l hl
    induction l with
    | nil => rfl
    | cons a l ih =>
      have := hl a (by simp)
      have := ih fun y hy => hl y (List.mem_cons_of_mem _ hy)
      simp only [List.flatten_cons, List.length_append, List.length_cons]
      omega
  rw [(evens_odds_perm Y).flatten.length_eq, hsum Y hall, hlen]
  omega

theorem length_romixFill {r n i : Nat} {X : List Byte} {V : Memory} (h : X.length = 128 * r) :
    (romixFill r n i X V).1.length = 128 * r := by
  induction n generalizing i X V with
  | zero => exact h
  | succ n ih => exact ih (length_blockmix r X)

theorem length_romixMix {N r n : Nat} {X : List Byte} {V : Memory} (h : X.length = 128 * r) :
    (romixMix N r V n X).length = 128 * r := by
  induction n generalizing X with
  | zero => exact h
  | succ n ih => exact ih (length_blockmix r _)

/-- ROMix gives a block of the size it takes (R249). -/
theorem length_romix {N r : Nat} {B : List Byte} {V : Memory} (h : B.length = 128 * r) :
    (romix N r B V).1.length = 128 * r :=
  length_romixMix (length_romixFill h)

theorem wf_romixFill {r n i : Nat} {X : List Byte} {V : Memory} (h : V.wf = true) :
    (romixFill r n i X V).2.wf = true := by
  induction n generalizing i X V with
  | zero => exact h
  | succ n ih => exact ih (vWrite_wf h r i X)

/-- A cell of the table after the fill phase was there before, or lies in one of the entries filled (R252). -/
theorem mem_romixFill {r n i : Nat} {X : List Byte} {V : Memory} {c : Host.Cell} (hX : X.length = 128 * r)
    (h : c ∈ (romixFill r n i X V).2) : c ∈ V ∨ c.1 < 128 * r * (i + n) := by
  induction n generalizing i X V with
  | zero => exact .inl h
  | succ n ih =>
    rcases ih (length_blockmix r X) h with h | h
    · rcases Memory.mem_writeBytes h with h | ⟨-, h⟩
      · exact .inl h
      · right
        rw [hX] at h
        calc c.1 < 128 * r * i + 128 * r := h
          _ = 128 * r * (i + 1) := by ring
          _ ≤ 128 * r * (i + (n + 1)) := Nat.mul_le_mul_left _ (by omega)
    · right
      rwa [show i + 1 + n = i + (n + 1) by omega] at h

end Sys2Proof.Machine
end

