-- ==== Sys2Proof/Laws/Exec.lean ====
section
/-! SUPPORT. What a command can do, said once: every meaning is the shared `runCommand` over the command's own effect, and a step
is one of five cases. -/

namespace Sys2Proof.Machine

/-- The effect of each command on the engines (30_encoding.md R92), as its meaning applies it. -/
def effectOf : Instr → State → State
  | .nop, s => s
  | .sha256Init, s => { s with h256 := iv256 }
  | .sha256Compress, s => { s with h256 := sha256Compress s.h256 s.m256 }
  | .sha256Zero, s => { s with h256 := Vector.replicate 8 0 }
  | .sha512Init, s => { s with h512 := iv512 }
  | .sha512Compress, s => { s with h512 := sha512Compress s.h512 s.m512 }
  | .sha512Zero, s => { s with h512 := Vector.replicate 8 0 }
  | .blake2bInit nn kk, s => blake2bInitEffect nn kk s
  | .blake2bCompress len f, s => blake2bCompressEffect len f s
  | .salsa20_8, s => s.setXbuf 0 (salsa20_8 (s.xbuf 0 64))
  | .blockmix, s => s.setXbuf 0 (blockmix s.blockR (s.xbuf 0 (128 * s.blockR)))
  | .romix, s => romixBlocks s.costN s.blockR s.parP s

/-- Every meaning in one form. -/
theorem exec_eq (i : Instr) (s : State) : exec i s = runCommand i (validateInstr s i) (effectOf i) s := by
  cases i <;> rfl

/-- What a command can do: complete with its effect, or be rejected with the code of its validation. -/
theorem exec_cases (i : Instr) (s : State) :
    (validateInstr s i = none ∧ exec i s = .next (effectOf i s).complete) ∨
    (∃ e, validateInstr s i = some e ∧ exec i s = .next (s.release.reject e (encode i))) := by
  rw [exec_eq]
  cases h : validateInstr s i with
  | none => exact .inl ⟨rfl, rfl⟩
  | some e => exact .inr ⟨e, rfl, rfl⟩

/-- A command that validates completes with its effect. -/
theorem exec_of_valid {i : Instr} {s : State} (h : validateInstr s i = none) : exec i s = .next (effectOf i s).complete := by
  rw [exec_eq, h]
  rfl

/-- A command that does not validate is rejected. -/
theorem exec_of_invalid {i : Instr} {s : State} {e : CmdError} (h : validateInstr s i = some e) :
    exec i s = .next (s.release.reject e (encode i)) := by
  rw [exec_eq, h]
  rfl

/-- What a turn of the unit can be. -/
theorem unitTurn_cases (s : State) :
    (s.busy = false ∧ unitTurn s = .over s) ∨
    (s.busy = true ∧ s.pending = none ∧ unitTurn s = .stuck .busyWithoutPending) ∨
    (∃ w i, s.busy = true ∧ s.pending = some w ∧ decodeWord w = .ok i ∧ unitTurn s = .run i s) ∨
    (∃ w x, s.busy = true ∧ s.pending = some w ∧ decodeWord w = .error x ∧
      unitTurn s = .over (s.release.reject .illegalCmd w)) := by
  unfold unitTurn
  cases hb : s.busy with
  | false => exact .inl ⟨rfl, rfl⟩
  | true =>
    cases hp : s.pending with
    | none => exact .inr (.inl ⟨rfl, rfl, rfl⟩)
    | some w =>
      cases hd : decodeWord w with
      | ok i => exact .inr (.inr (.inl ⟨w, i, rfl, rfl, hd, by simp [hd]⟩))
      | error x => exact .inr (.inr (.inr ⟨w, x, rfl, rfl, hd, by simp [hd]⟩))

/-- A step whose oldest event is a host access performs it. -/
theorem step_host {s : State} {a : Access} {es : List Event} (h : s.inbox = .host a :: es) :
    step s = .next (hostAccess { s with inbox := es } a) := by
  simp [step, turn, h]

/-- A step whose oldest event is the RESET input resets the block. -/
theorem step_reset {s : State} {es : List Event} (h : s.inbox = .reset :: es) :
    step s = .next (State.resetBlock { s with inbox := es }) := by
  simp [step, turn, h]

/-- A step of the unit runs the pending command. -/
theorem step_unit {s : State} {es : List Event} {w : Word} {i : Instr} (h : s.inbox = .unit :: es) (hb : s.busy = true)
    (hp : s.pending = some w) (hd : decodeWord w = .ok i) : step s = exec i { s with inbox := es } := by
  simp [step, turn, h, unitTurn, hb, hp, hd]

end Sys2Proof.Machine
end

