-- ==== Sys2Proof/Laws/HostPort.lean ====
section
/-! SUPPORT. What the host port can do, said once: the location each offset of the window reaches (10_state.md R23), and what an access
to a control or a data location answers. -/

namespace Sys2Proof.Machine

/-- What a 4-aligned offset reaches: a control register, an element of a register array, a word of a buffer, or nothing. -/
theorem locate_cases (c : Config) (off : Nat) (h : off % 4 = 0) :
    (∃ l, off < 0x28 ∧ locate c off = some l ∧ l.isData = false ∧ l.offset = off) ∨
    (∃ k : Fin 8, off = 0x100 + 4 * k ∧ locate c off = some (.h256 k)) ∨
    (∃ k : Fin 8, off = 0x200 + 8 * k ∧ locate c off = some (.h512Hi k)) ∨
    (∃ k : Fin 8, off = 0x204 + 8 * k ∧ locate c off = some (.h512Lo k)) ∨
    (∃ k : Fin 8, off = 0x300 + 8 * k ∧ locate c off = some (.b2hLo k)) ∨
    (∃ k : Fin 8, off = 0x304 + 8 * k ∧ locate c off = some (.b2hHi k)) ∨
    (∃ q : Fin 4, off = 0x340 + 4 * q ∧ locate c off = some (.b2t q)) ∨
    (inBuffer c off = true ∧ locate c off = some (.buffer off)) ∨
    (¬ (off < 0x28 ∨ (0x100 ≤ off ∧ off < 0x120) ∨ (0x200 ≤ off ∧ off < 0x240) ∨ (0x300 ≤ off ∧ off < 0x350)) ∧
      inBuffer c off = false ∧ locate c off = none) := by
  by_cases h0 : off < 0x28
  · left
    obtain ⟨k, rfl⟩ : ∃ k, off = 4 * k := ⟨off / 4, by omega⟩
    have hk : k < 10 := by omega
    clear h h0
    interval_cases k <;> exact ⟨_, by decide, rfl, rfl, rfl⟩
  have e : locate c off =
      if 0x100 ≤ off ∧ off < 0x120 then some (.h256 (arrayIndex 8 off 0x100 4))
      else if 0x200 ≤ off ∧ off < 0x240 then
        some (if off % 8 = 0 then .h512Hi (arrayIndex 8 off 0x200 8) else .h512Lo (arrayIndex 8 off 0x200 8))
      else if 0x300 ≤ off ∧ off < 0x340 then
        some (if off % 8 = 0 then .b2hLo (arrayIndex 8 off 0x300 8) else .b2hHi (arrayIndex 8 off 0x300 8))
      else if 0x340 ≤ off ∧ off < 0x350 then some (.b2t (arrayIndex 4 off 0x340 4))
      else if inBuffer c off then some (.buffer off)
      else none := by
    unfold locate
    iterate 10 rw [if_neg (by omega)]
  have index : ∀ n [NeZero n] base stride, 0 < stride → base ≤ off → off < base + stride * n →
      ((arrayIndex n off base stride : Fin n) : Nat) = (off - base) / stride := by
    intro n _ base stride hs h1 h2
    exact Nat.mod_eq_of_lt (Nat.div_lt_of_lt_mul (by omega))
  right
  by_cases h1 : 0x100 ≤ off ∧ off < 0x120
  · rw [if_pos h1] at e
    exact .inl ⟨_, by rw [index 8 _ _ (by omega) (by omega) (by omega)]; omega, e⟩
  rw [if_neg h1] at e
  right
  by_cases h2 : 0x200 ≤ off ∧ off < 0x240
  · rw [if_pos h2] at e
    by_cases h8 : off % 8 = 0
    · rw [if_pos h8] at e
      exact .inl ⟨_, by rw [index 8 _ _ (by omega) (by omega) (by omega)]; omega, e⟩
    · rw [if_neg h8] at e
      exact .inr (.inl ⟨_, by rw [index 8 _ _ (by omega) (by omega) (by omega)]; omega, e⟩)
  rw [if_neg h2] at e
  refine .inr (.inr ?_)
  by_cases h3 : 0x300 ≤ off ∧ off < 0x340
  · rw [if_pos h3] at e
    by_cases h8 : off % 8 = 0
    · rw [if_pos h8] at e
      exact .inl ⟨_, by rw [index 8 _ _ (by omega) (by omega) (by omega)]; omega, e⟩
    · rw [if_neg h8] at e
      exact .inr (.inl ⟨_, by rw [index 8 _ _ (by omega) (by omega) (by omega)]; omega, e⟩)
  rw [if_neg h3] at e
  refine .inr (.inr ?_)
  by_cases h4 : 0x340 ≤ off ∧ off < 0x350
  · rw [if_pos h4] at e
    exact .inl ⟨_, by rw [index 4 _ _ (by omega) (by omega) (by omega)]; omega, e⟩
  rw [if_neg h4] at e
  right
  cases h5 : inBuffer c off with
  | true =>
    rw [h5, if_pos rfl] at e
    exact .inl ⟨rfl, e⟩
  | false =>
    rw [h5, if_neg (by decide)] at e
    exact .inr ⟨by omega, rfl, e⟩

/-- An offset that a word access reaches is the location's own. -/
theorem offset_of_locate {c : Config} {off : Nat} {l : Loc} (h : off % 4 = 0) (hl : locate c off = some l) : l.offset = off := by
  rcases locate_cases c off h with ⟨m, -, e, -, ho⟩ | ⟨k, ho, e⟩ | ⟨k, ho, e⟩ | ⟨k, ho, e⟩ | ⟨k, ho, e⟩ | ⟨k, ho, e⟩ | ⟨k, ho, e⟩ |
    ⟨-, e⟩ | ⟨-, -, e⟩ <;> rw [e] at hl <;> cases hl <;> first | exact ho | exact ho.symm | rfl

theorem inBuffer_iff {c : Config} {off : Nat} : inBuffer c off = true ↔
    (0x140 ≤ off ∧ off < 0x180) ∨ (0x280 ≤ off ∧ off < 0x300) ∨ (0x380 ≤ off ∧ off < 0x400) ∨
      (0x10000 ≤ off ∧ off < 0x10000 + c.xbufBytes) := by
  simp only [inBuffer, Bool.or_eq_true, decide_eq_true_eq, m256Base, m512Base, b2mBase, xbufBase]
  omega

/-- A word access at a data offset reaches a data location. -/
theorem decodeAccess_of_dataOffset {c : Config} {off : Nat} (h : dataOffset c off) :
    ∃ l, decodeAccess c off 4 = some l ∧ l.isData = true ∧ l.offset = off := by
  obtain ⟨h4, h⟩ := h
  have e : decodeAccess c off 4 = locate c off := if_neg (by simp only [windowBytes]; omega)
  rw [e]
  rcases locate_cases c off h4 with ⟨m, ho, -⟩ | ⟨k, ho, e⟩ | ⟨k, ho, e⟩ | ⟨k, ho, e⟩ | ⟨k, ho, e⟩ | ⟨k, ho, e⟩ | ⟨k, ho, e⟩ |
    ⟨-, e⟩ | ⟨hn, hb, -⟩
  · omega
  all_goals first | exact ⟨_, e, rfl, ho.symm⟩ | exact ⟨_, e, rfl, rfl⟩ | skip
  have := mt inBuffer_iff.2 (by rw [hb]; decide)
  omega

/-- A word access at a control offset reaches a control register. -/
theorem decodeAccess_of_controlOffset {c : Config} {off : Nat} (h : controlOffset off) :
    ∃ l, decodeAccess c off 4 = some l ∧ l.isData = false ∧ l.offset = off := by
  obtain ⟨h4, h⟩ := h
  have e : decodeAccess c off 4 = locate c off := if_neg (by simp only [windowBytes]; omega)
  rw [e]
  rcases locate_cases c off h4 with ⟨m, -, e⟩ | ⟨k, ho, -⟩ | ⟨k, ho, -⟩ | ⟨k, ho, -⟩ | ⟨k, ho, -⟩ | ⟨k, ho, -⟩ | ⟨k, ho, -⟩ |
    ⟨hb, -⟩ | ⟨hn, -, -⟩
  · exact ⟨m, e⟩
  all_goals first | omega | skip
  have := inBuffer_iff.1 hb
  omega

/-- An access reaches a location only at an offset of the table of R23. -/
theorem decodeAccess_eq_some {c : Config} {off size : Nat} {l : Loc} (h : decodeAccess c off size = some l) :
    size = 4 ∧ (controlOffset off ∨ dataOffset c off) ∧ l.offset = off := by
  unfold decodeAccess at h
  split at h
  · cases h
  · rename_i hs
    simp only [windowBytes] at hs
    have h4 : off % 4 = 0 := by omega
    refine ⟨by omega, ?_, offset_of_locate h4 h⟩
    unfold controlOffset dataOffset
    rcases locate_cases c off h4 with ⟨m, ho, -⟩ | ⟨k, ho, -⟩ | ⟨k, ho, -⟩ | ⟨k, ho, -⟩ | ⟨k, ho, -⟩ | ⟨k, ho, -⟩ | ⟨k, ho, -⟩ |
      ⟨hb, -⟩ | ⟨-, -, hn⟩
    all_goals first | omega | skip
    · have := inBuffer_iff.1 hb
      omega
    · rw [hn] at h
      cases h

/-- A read of a data location answers 0 while a command is pending, and the data otherwise (45_control.md R281, R285). -/
theorem readLoc_of_isData {s : State} {l : Loc} (h : l.isData = true) : readLoc s l = if s.busy then 0 else s.dataRead l := by
  cases l <;> first | rfl | cases h

/-- A write of a data location is dropped while a command is pending, and stores otherwise (45_control.md R283, R286). -/
theorem writeLoc_of_isData {s : State} {v : Word} {l : Loc} (h : l.isData = true) :
    writeLoc s v l = if s.busy then { s with busywr := true } else s.dataWrite v l := by
  cases l <;> first | rfl | cases h

@[simp] theorem writeLoc_replies (s : State) (v : Word) (l : Loc) : (writeLoc s v l).replies = s.replies := by
  cases hb : s.busy <;> cases l <;> simp only [writeLoc, writeIdle, State.dataWrite, State.ctrlWrite, State.statusWrite, issue, hb] <;>
    repeat' split
  all_goals rfl

end Sys2Proof.Machine
end

