-- ==== Sys2Proof/Laws/PerInstr.lean ====
section
/-! SUPPORT. Facts about every command as syntax, one lemma per constructor. -/

namespace Sys2Proof.Laws.RowSelects

/-- The word of the command lies in a row of the opcode table that carries the command's own mnemonic (30_encoding.md R93, R94). -/
def Statement (i : Instr) : Prop :=
  ∃ row ∈ opcodeRows, row.mnemonic = mnemonicOf i ∧ row.selects (encode i) = true

theorem nop : Statement .nop := by simp only [Statement]; decide

theorem sha256Init : Statement .sha256Init := by simp only [Statement]; decide

theorem sha256Compress : Statement .sha256Compress := by simp only [Statement]; decide

theorem sha256Zero : Statement .sha256Zero := by simp only [Statement]; decide

theorem sha512Init : Statement .sha512Init := by simp only [Statement]; decide

theorem sha512Compress : Statement .sha512Compress := by simp only [Statement]; decide

theorem sha512Zero : Statement .sha512Zero := by simp only [Statement]; decide

/-- The row of BLAKE2B_INIT leaves its operand fields open. -/
theorem blake2bInit (nn kk : BitVec 8) : Statement (.blake2bInit nn kk) := by
  refine ⟨⟨"BLAKE2B_INIT", 0x00000021, 0xFF0000FF⟩, by decide, rfl, beq_iff_eq.2 ?_⟩
  have e : ∀ i, i < 32 → ((0#7 ++ BitVec.ofBool false ++ kk ++ nn ++ 0x21#8).getLsbD i &&
      BitVec.getLsbD 0xFF0000FF#32 i) = BitVec.getLsbD 0x21#32 i := by
    intro i hi
    simp only [BitVec.getLsbD_append]
    interval_cases i <;> simp
  exact BitVec.eq_of_getLsbD_eq fun i hi => (BitVec.getLsbD_and ..).trans (e i hi)

/-- The row of BLAKE2B_COMPRESS leaves LEN and F open. -/
theorem blake2bCompress (len : BitVec 8) (f : Bool) : Statement (.blake2bCompress len f) := by
  refine ⟨⟨"BLAKE2B_COMPRESS", 0x00000022, 0xFEFF00FF⟩, by decide, rfl, beq_iff_eq.2 ?_⟩
  have e : ∀ i, i < 32 → ((0#7 ++ BitVec.ofBool f ++ 0#8 ++ len ++ 0x22#8).getLsbD i &&
      BitVec.getLsbD 0xFEFF00FF#32 i) = BitVec.getLsbD 0x22#32 i := by
    intro i hi
    simp only [BitVec.getLsbD_append]
    interval_cases i <;> simp
  exact BitVec.eq_of_getLsbD_eq fun i hi => (BitVec.getLsbD_and ..).trans (e i hi)

theorem salsa20_8 : Statement .salsa20_8 := by simp only [Statement]; decide

theorem blockmix : Statement .blockmix := by simp only [Statement]; decide

theorem romix : Statement .romix := by simp only [Statement]; decide

end Sys2Proof.Laws.RowSelects
end

