-- ==== Sys2Proof/Tests/Slice0.lean ====
section
/-! SUPPORT. Tests: words written out bit by bit, ill-formed commands, vectors of 95_test_vectors.md (each named in its test), and for
every obligation with hypotheses a concrete input that meets them. -/

namespace Sys2Proof.Machine.Tests

/-! ## Helpers -/

/-- The `n` bytes of a number, most significant first: the byte strings of 95_test_vectors.md. -/
def bytesOf : Nat → Nat → List Byte
  | 0, _ => []
  | n + 1, v => BitVec.ofNat 8 (v / 256 ^ n) :: bytesOf n v

/-- The outcome is a next state with the property `p`. -/
def ends (o : Result) (p : State → Bool) : Bool :=
  match o with
  | .next t => p t
  | _ => false

/-- The reset state with the bytes `bs` stored at window offset `base`. -/
def loaded (base : Nat) (bs : List Byte) : State := { State.reset with mem := Memory.writeBytes [] base bs }

/-- The reset state with the SCRYPT registers written. -/
def scryptRegs (N r p : Word) : State := { State.reset with scryptN := N, scryptR := r, scryptP := p }

/-- A command word pending in the reset state, with the schedule `es`. -/
def waiting (w : Word) (es : List Event) : State := { State.reset.accept w with inbox := es }

/-- An idle state with the schedule `es`. -/
def scheduled (es : List Event) : State := { State.reset with inbox := es }

/-! ## Well-formedness (30_encoding.md R91): each check refuses an ill-formed command -/

theorem test_wellFormed_outlen_zero : WellFormed (.blake2bInit 0 0) = false := by decide

theorem test_wellFormed_outlen_65 : WellFormed (.blake2bInit 65 0) = false := by decide

theorem test_wellFormed_keylen_65 : WellFormed (.blake2bInit 64 65) = false := by decide

theorem test_wellFormed_blocklen_129 : WellFormed (.blake2bCompress 129 true) = false := by decide

theorem test_wellFormed_bounds : WellFormed (.blake2bInit 1 0) = true ∧ WellFormed (.blake2bInit 64 64) = true ∧
    WellFormed (.blake2bCompress 128 false) = true := by decide

/-! ## Decoding: words written out as RSV, F, B, A, OP (30_encoding.md R90, R93) -/

theorem test_decode_nop : decodeWord 0b0000000_0_00000000_00000000_00000000 = .ok .nop := by decide

theorem test_decode_sha256Init : decodeWord 0b0000000_0_00000000_00000000_00000001 = .ok .sha256Init := by decide

theorem test_decode_sha256Compress : decodeWord 0b0000000_0_00000000_00000000_00000010 = .ok .sha256Compress := by decide

theorem test_decode_sha256Zero : decodeWord 0b0000000_0_00000000_00000000_00000011 = .ok .sha256Zero := by decide

theorem test_decode_sha512Init : decodeWord 0b0000000_0_00000000_00000000_00010001 = .ok .sha512Init := by decide

theorem test_decode_sha512Compress : decodeWord 0b0000000_0_00000000_00000000_00010010 = .ok .sha512Compress := by decide

theorem test_decode_sha512Zero : decodeWord 0b0000000_0_00000000_00000000_00010011 = .ok .sha512Zero := by decide

/-- NN = 32 in field A, KK = 64 in field B. -/
theorem test_decode_blake2bInit : decodeWord 0b0000000_0_01000000_00100000_00100001 = .ok (.blake2bInit 32 64) := by decide

/-- LEN = 3 in field A, F = 1. -/
theorem test_decode_blake2bCompress : decodeWord 0b0000000_1_00000000_00000011_00100010 = .ok (.blake2bCompress 3 true) := by decide

theorem test_decode_salsa20_8 : decodeWord 0b0000000_0_00000000_00000000_00110001 = .ok .salsa20_8 := by decide

theorem test_decode_blockmix : decodeWord 0b0000000_0_00000000_00000000_00110010 = .ok .blockmix := by decide

theorem test_decode_romix : decodeWord 0b0000000_0_00000000_00000000_00110011 = .ok .romix := by decide

/-- V25: the illegal words. -/
theorem test_decode_illegal :
    ([0x01004021, 0x00018022, 0x02000001, 0x00000100, 0x00000004, 0x000000FF].all fun w =>
      (decodeWord w).toOption == none) = true := by decide

/-- The encoder gives the words of V11 and V13. -/
theorem test_encode : encode (.blake2bInit 64 64) = 0x00404021 ∧ encode (.blake2bCompress 3 true) = 0x01000322 := by decide

theorem test_decodeTableWord : decodeTableWord 32 0x33 = some .romix ∧ decodeTableWord 40 0x33 = none := by decide

/-! ## The commands -/

/-- V25: NOP ends with STATUS = 2. -/
theorem test_nop : ends (exec .nop (waiting 0 [])) (fun t => t.statusWord == 2) = true := by decide

/-- V6a. -/
theorem test_sha256Init : ends (exec .sha256Init State.reset) (fun t => t.h256[0] == 0x6A09E667 && t.h256[7] == 0x5BE0CD19) = true := by
  decide

/-- V1: the padded block of "abc". -/
theorem test_sha256Compress_abc :
    ends (exec .sha256Compress { loaded 0x140 (bytesOf 64 (0x61626380 * 2 ^ 480 + 0x18)) with h256 := iv256 }) (fun t =>
      t.h256 == #v[0xBA7816BF, 0x8F01CFEA, 0x414140DE, 0x5DAE2223, 0xB00361A3, 0x96177A9C, 0xB410FF61, 0xF20015AD]) = true := by
  decide +kernel

/-- V4: from the zero state. -/
theorem test_sha256Compress_zero :
    ends (exec .sha256Compress State.reset) (fun t =>
      t.h256 == #v[0x7CA51614, 0x425C3BA8, 0xCE54DD2F, 0xC2020AE7, 0xB6E574D1, 0x98136D0F, 0xAE7E26CC, 0xBF0BE7A6]) = true := by
  decide +kernel

theorem test_sha256Zero :
    ends (exec .sha256Zero { State.reset with h256 := iv256 }) (fun t => t.h256 == Vector.replicate 8 0) = true := by decide

theorem test_sha512Init : ends (exec .sha512Init State.reset) (fun t => t.h512[0] == 0x6A09E667F3BCC908) = true := by decide

/-- V7: the padded block of "abc". -/
theorem test_sha512Compress_abc :
    ends (exec .sha512Compress { loaded 0x280 (bytesOf 128 (0x61626380 * 2 ^ 992 + 0x18)) with h512 := iv512 }) (fun t =>
      t.h512 == #v[0xDDAF35A193617ABA, 0xCC417349AE204131, 0x12E6FA4E89A97EA2, 0x0A9EEEE64B55D39A,
        0x2192992A274FC1A8, 0x36BA3C23A3FEEBBD, 0x454D4423643CE80E, 0x2A9AC94FA54CA49F]) = true := by
  decide +kernel

theorem test_sha512Zero :
    ends (exec .sha512Zero { State.reset with h512 := iv512 }) (fun t => t.h512 == Vector.replicate 8 0) = true := by decide

/-- V16: `b2.init 1, 0`. -/
theorem test_blake2bInit : ends (exec (.blake2bInit 1 0) State.reset) (fun t => t.b2h[0] == 0x6A09E667F2BDC909) = true := by decide

/-- V11: "abc" as one final block. -/
theorem test_blake2bCompress_abc :
    ends (exec (.blake2bCompress 3 true) { loaded 0x380 [0x61, 0x62, 0x63] with b2h := b2hInit 64 0 }) (fun t =>
      t.b2t == 3 && t.b2fin && t.b2h == #v[0x0D4D1C983FA580BA, 0xE9F6129FB697276A, 0xB7C45A68142F214C, 0xD1A2FFDB6FBB124B,
        0x2D79AB2A39C5877D, 0x95CC3345DED552C2, 0x5A92F1DBA88AD318, 0x239900D4ED8623B9]) = true := by
  decide +kernel

/-- V16a: the counter wraps. -/
theorem test_blake2bCompress_wrap :
    ends (exec (.blake2bCompress 1 false) { State.reset with b2t := BitVec.allOnes 128 }) (fun t => t.b2t == 0 && !t.err) = true := by
  decide +kernel

/-- V17. -/
theorem test_salsa20_8 :
    ends (exec .salsa20_8 (loaded 0x10000 (bytesOf 64
      0x7e879a214f3ec9867ca940e641718f26baee555b8c61c1b50df846116dcd3b1dee24f319df9b3d8514121e4b5ac5aa3276021d2909c74829edebc68db8b8c25e)))
      (fun t => t.xbuf 0 64 == bytesOf 64
      0xa41f859c6608cc993b81cacb020cef05044b2181a2fd337dfd7b1c6396682f29b4393168e3c9e6bcfe6bc5b7a06d96bae424cc102c91745c24ad673dc7618f81) =
      true := by
  decide +kernel

/-- V19: the first 64 bytes of the result with r = 2 on the bytes 00 to FF. -/
theorem test_blockmix :
    ends (exec .blockmix { loaded 0x10000 ((List.range 256).map (BitVec.ofNat 8)) with scryptR := 2 })
      (fun t => (t.xbuf 0 64 == bytesOf 64
        0xa86a7c7d9f05bcf2bcbc01bf25db335825db3358a86a7c7d9f05bcf2bcbc01bfbcbc01bf25db3358a86a7c7d9f05bcf29f05bcf2bcbc01bf25db3358a86a7c7d) &&
        t.xbuf 240 16 == bytesOf 16 0x5d3317a86c2720470d468c119267fbcf) = true := by
  decide +kernel

/-- The block B of V21. -/
def v21Block : List Byte :=
  bytesOf 64 0xf7ce0b653d2d72a4108cf5abe912ffdd777616dbbb27a70e8204f3ae2d0f6fad89f68f4811d1e87bcc3bd7400a9ffd29094f0184639574f39ae5a1315217bcd7 ++
  bytesOf 64 0x894991447213bb226c25b54da86370fbcd984380374666bb8ffcb5bf40c254b067d27c51ce4ad5fed829c90b505a571b7f4d1cad6a523cda770e67bceaaf7e89

/-- V23: the smallest cost, N = 2. -/
theorem test_romix :
    ends (exec .romix { loaded 0x10000 v21Block with scryptN := 2, scryptR := 1, scryptP := 1 })
      (fun t => t.xbuf 0 64 == bytesOf 64
        0xcfdb83e76fb8bcf9c18c63c212cfdaa16eb2b553ef19dd592fd33fb615f7eb62ac727d54f56675d2d9bbd59f94f74af14553143d48c5317a36c9b77d1dd0f0d3) =
      true := by
  decide +kernel

/-! ## Lanes, the host port and the errors -/

/-- V30, V31. -/
theorem test_lanes : laneAdd 0 0xFFFFFFFF 0 1 = (1, 0) ∧ laneRotr 0 1 63 = (0, 2) ∧ laneRotr 1 0 33 = (0x80000000, 0) ∧
    laneShr 1 0 7 = (0, 0x02000000) ∧ laneShr 0x80000000 0 63 = (0, 1) := by decide

/-- V15: G alone. -/
theorem test_mixG :
    mixG ((Vector.replicate 16 0).set 0 1) 0 4 8 12 0 0 =
      #v[0x101, 0, 0, 0, 0x0202000200020200, 0, 0, 0, 0x0101000100010000, 0, 0, 0, 0x0101000000010000, 0, 0, 0] := by decide +kernel

/-- V26: the rejected accesses, and the last word of XBUF. -/
theorem test_busErrors :
    hostRead State.reset 0x28 4 = .busError 0x28 ∧ hostRead State.reset 0x102 4 = .busError 0x102 ∧
    hostRead State.reset 0x100 2 = .busError 0x100 ∧ hostRead State.reset 0x20000 4 = .busError 0x20000 ∧
    hostRead State.reset 0x120 4 = .busError 0x120 ∧ hostRead State.reset 0x350 4 = .busError 0x350 ∧
    hostRead State.reset 0x1FFFC 4 = .value 0 := by decide +kernel

/-- V24: STATUS after the rejections of ROMIX, and the size that fits exactly. -/
theorem test_romix_codes :
    ((issue (scryptRegs 1000 8 16) 0x33).statusWord = 0x606) ∧ ((issue (scryptRegs 1000 32768 32768) 0x33).statusWord = 0x506) ∧
    ((issue (scryptRegs 1 1 1) 0x33).statusWord = 0x606) ∧ ((issue (scryptRegs 0 1 1) 0x33).statusWord = 0x606) ∧
    ((issue (scryptRegs 16 0 1) 0x33).statusWord = 0x706) ∧ ((issue (scryptRegs 16 1 0) 0x33).statusWord = 0x706) ∧
    ((issue (scryptRegs 1048576 8 1) 0x33).statusWord = 0x806) ∧ ((issue (scryptRegs 16 8 65) 0x33).statusWord = 0x806) ∧
    ((issue (scryptRegs 131072 1 1) 0x33).statusWord = 0x001) := by decide +kernel

/-- V25: STATUS after the rejections of the BLAKE2b words, and the ERRCMD recorded. -/
theorem test_blake2b_codes :
    (issue State.reset 0x00004121).statusWord = 0x206 ∧ (issue State.reset 0x00414021).statusWord = 0x306 ∧
    (issue State.reset 0x00408021).statusWord = 0x206 ∧ (issue State.reset 0x00008122).statusWord = 0x406 ∧
    (issue State.reset 0x01004021).statusWord = 0x106 ∧ (issue State.reset 0x01004021).errcmd = 0x01004021 := by decide +kernel

/-- V27: while busy a CMD write is dropped and sets BUSYWR, and engine data reads 0. -/
theorem test_busy :
    (hostWrite (waiting 2 []) 0x0C 4 3).1.busywr = true ∧ (hostWrite (waiting 2 []) 0x0C 4 3).1.pending = some 2 ∧
    hostRead { waiting 2 [] with h256 := iv256 } 0x100 4 = .value 0 := by decide +kernel

/-! ## The driver (46_host_protocol.md) -/

/-- The result of a driver call on the reset state. -/
def resultOf {α : Type} (c : Driver.Call α) : Except Driver.Failure α := (c State.reset).2

/-- R318, E3, E4: the two errors of `init` are told apart; a length without a command word fails without an access. -/
theorem test_driver_init_errors :
    resultOf (Driver.b2InitCall 1 65 []) = .error (.command 2) ∧
    resultOf (Driver.b2InitCall 1 64 (List.replicate 65 0)) = .error (.command 3) ∧
    Driver.b2InitCall 1 257 [] State.reset = (State.reset, .error (.command 2)) ∧
    Driver.blake2bDigest 64 (List.replicate 65 0) [] = .error (.command 3) := by decide +kernel

/-- R318: a rejected `init` ends after one read of STATUS, and B2H is not loaded. -/
theorem test_driver_init_stops :
    (Driver.b2DigestCall 1 65 [] [0x61] State.reset).1.replies = [.value 0x206, .written] ∧
    (Driver.b2DigestCall 1 65 [] [0x61] State.reset).1.b2h = Vector.replicate 8 0 := by decide +kernel

/-- R327 step 4, V24: `derive` fails with the code ROMIX is rejected with, ZERO_PARAM and CAPACITY. -/
theorem test_driver_scrypt_rejected :
    resultOf (Driver.scryptMixCall 1 16 0 1 []) = .error (.command 7) ∧
    Driver.scryptDerive Config.default [] [] 16 1 0 64 = .error (.command 7) ∧
    Driver.scryptDerive Config.default [] [] 1048576 8 1 64 = .error (.command 8) ∧
    Driver.scryptDerive Config.default [] [] 1000 8 16 64 = .error (.command 6) := by decide +kernel

/-- R325: a wrong-sized argument fails. -/
theorem test_driver_root_contract :
    Driver.blake2bRoot [0] [0, 1] 1 = .error .contract ∧ Driver.sha256Root [] [] = .error .contract := by decide +kernel

/-! ## Inputs that meet the hypotheses of the statements -/

theorem test_witness_DecodeFollowsOpcodeTable :
    ∃ p ∈ opcodeRows, p.selects 0x01000322 = true ∧ p.mnemonic = "BLAKE2B_COMPRESS" :=
  ⟨⟨"BLAKE2B_COMPRESS", 0x00000022, 0xFEFF00FF⟩, by decide, by decide, rfl⟩

theorem test_witness_WellFormedIffAccepted :
    (Instr.blake2bInit 64 0 ≠ .blockmix ∧ Instr.blake2bInit 64 0 ≠ .romix ∧ WellFormed (.blake2bInit 64 0) = true) ∧
    (Instr.blake2bInit 65 0 ≠ .blockmix ∧ Instr.blake2bInit 65 0 ≠ .romix ∧ WellFormed (.blake2bInit 65 0) = false) := by decide

theorem test_witness_LaneRotateAndShiftAreWide : ∀ n ∈ [1, 31, 32, 33, 63], 0 < n ∧ n < 64 := by decide

theorem test_witness_CanonicalMemoryIsUnique :
    let m : Memory := [(3, 1), (5, 2)]
    m.wf = true ∧ ∀ a, m.read a = m.read a := ⟨by decide, fun _ => rfl⟩

theorem test_witness_EngineWordsFromHostWords : (0 < 16) ∧ (15 < 16) := by decide

theorem test_witness_BusErrorExactlyWhenUnmapped :
    (∀ off ∈ [0x00, 0x24], controlOffset off) ∧
    (∀ off ∈ [0x100, 0x11C, 0x140, 0x17C, 0x200, 0x23C, 0x280, 0x33C, 0x340, 0x34C, 0x380, 0x3FC, 0x10000, 0x1FFFC],
      dataOffset Config.default off) ∧
    (∀ off ∈ [0x02, 0x28, 0xFC, 0x120, 0x13C, 0x180, 0x1FC, 0x240, 0x27C, 0x350, 0x37C, 0x400, 0xFFFC, 0x20000],
      ¬ (controlOffset off ∨ dataOffset Config.default off)) := by decide +kernel

theorem test_witness_DataReadsWhileIdle :
    State.reset.busy = false ∧
    (∀ off ∈ [0x140, 0x17C, 0x280, 0x2FC, 0x380, 0x3FC, 0x10000, 0x1FFFC],
      off < 0x20000 ∧ off % 4 = 0 ∧ inBuffer State.reset.cfg off = true) := by decide +kernel

theorem test_witness_WritableLocationsAreSeparateStorage :
    State.reset.busy = false ∧ dataOffset State.reset.cfg 0x204 ∧ dataOffset State.reset.cfg 0x1FFFC ∧ (0x200 : Nat) ≠ 0x204 := by
  decide +kernel

theorem test_witness_BusyReadsGiveZero :
    (waiting 2 []).busy = true ∧ dataOffset (waiting 2 []).cfg 0x100 ∧ dataOffset (waiting 2 []).cfg 0x1FFFC ∧
    controlOffset 0x00 ∧ controlOffset 0x24 ∧ (0x24 : Nat) ≠ 0x08 := by decide +kernel

theorem test_witness_BusyWritesAreDropped :
    (waiting 2 []).busy = true ∧ dataOffset (waiting 2 []).cfg 0x100 ∧ (1 : Word).getLsbD 1 = false ∧ (3 : Word).getLsbD 1 = true := by
  decide +kernel

theorem test_witness_ReadOnlyWritesAreIgnored :
    (0xFFFFFFFC : Word) &&& 0x3 = 0 &&& 0x3 ∧ (0xFFFFFFF1 : Word) &&& 0xE = 0 &&& 0xE := by decide

theorem test_witness_CtrlWriteSetsIeOrResets : (1 : Word).getLsbD 1 = false ∧ (3 : Word).getLsbD 1 = true := by decide

theorem test_witness_HardwareResetFromAnyState : (waiting 0x33 [.reset]).inbox = .reset :: [] := rfl

theorem test_witness_ResetStateReads : dataOffset State.reset.cfg 0x100 ∧ dataOffset State.reset.cfg 0x1FFFC := by decide +kernel

theorem test_witness_IrqFollowsDoneAndIe :
    (∃ t, exec .nop (waiting 0 []) = .next t) ∧ State.reset.busy = false ∧ validate State.reset 0x04 ≠ none :=
  ⟨⟨_, rfl⟩, by decide⟩

theorem test_witness_CommandIssue :
    State.reset.busy = false ∧ validate State.reset 0x00004121 = some .badOutlen ∧ validate State.reset 0x00004021 = none := by decide

theorem test_witness_IllegalWordIsRejected :
    State.reset.busy = false ∧ ∀ row ∈ opcodeRows, (0x00000004 : Word) &&& row.mask ≠ row.value := by decide

/-- A state for each clause, at the edge of its range: r·p = 2^30; N = 1; N = 2 with every later outcome. -/
theorem test_witness_ScryptRejectionCodes :
    2 ^ 30 ≤ (scryptRegs 1000 32768 32768).scryptR.toNat * (scryptRegs 1000 32768 32768).scryptP.toNat ∧
    ((1073741823 : Word).toNat * (1 : Word).toNat < 2 ^ 30 ∧ ¬ ∃ k, 1 ≤ k ∧ (1 : Word).toNat = 2 ^ k) ∧
    ((1 : Word).toNat * (1 : Word).toNat < 2 ^ 30 ∧ ∃ k, 1 ≤ k ∧ (2 : Word).toNat = 2 ^ k) := by
  refine ⟨by decide, ⟨by decide, ?_⟩, by decide, 1, by decide, by decide⟩
  rintro ⟨k, hk, h⟩
  have : 2 ^ 1 ≤ 2 ^ k := Nat.pow_le_pow_right (by decide) hk
  have : (1 : Word).toNat = 1 := rfl
  omega

theorem test_witness_Blake2bInitResult :
    (1 ≤ (1 : BitVec 8).toNat ∧ (1 : BitVec 8).toNat ≤ 64 ∧ (0 : BitVec 8).toNat ≤ 64) ∧
    (1 ≤ (64 : BitVec 8).toNat ∧ (64 : BitVec 8).toNat ≤ 64 ∧ (64 : BitVec 8).toNat ≤ 64) := by decide

theorem test_witness_Blake2bCompressResult : (0 : BitVec 8).toNat ≤ 128 ∧ (128 : BitVec 8).toNat ≤ 128 ∧ State.reset.b2fin = false := by
  decide

theorem test_witness_FinalizedCompressIsNoOp :
    let s : State := { State.reset with b2fin := true }
    s.b2fin = true ∧ validate s (encode (.blake2bCompress 128 false)) = none := by decide

theorem test_witness_MixGOnItsLanes : [(0 : Fin 16), 4, 8, 12].Nodup := by decide

theorem test_witness_DisjointMixesCommute : [(0 : Fin 16), 4, 8, 12, 1, 5, 9, 13].Nodup := by decide

theorem test_witness_QuarterRoundOnItsWords : [(15 : Fin 16), 12, 13, 14].Nodup := by decide

theorem test_witness_BlockmixChunkOrder : 1 ≤ 1 ∧ v21Block.length = 128 * 1 := by decide +kernel

theorem test_witness_BlockmixCommandResult :
    ∀ r ∈ [1, 512], r = (scryptRegs 0 (BitVec.ofNat 32 r) 0).scryptR.toNat ∧ 1 ≤ r ∧ 128 * r ≤ Config.default.xbufBytes := by decide

theorem test_witness_IntegerifyIsModulo : (2147483648 : Nat) = 2 ^ 31 ∧ 31 ≤ 31 := by decide

theorem test_witness_RomixIsSequential : v21Block.length = 128 * 1 := by decide +kernel

theorem test_witness_RomixCommandResult :
    let s := scryptRegs 131072 1 1
    (131072 = s.scryptN.toNat ∧ 1 = s.scryptR.toNat ∧ 1 = s.scryptP.toNat) ∧ 1 * 1 < 2 ^ 30 ∧ (∃ k, 1 ≤ k ∧ 131072 = 2 ^ k) ∧
    (1 : Nat) ≠ 0 ∧ 128 * 1 * 1 ≤ s.cfg.xbufBytes ∧ 128 * 1 * 131072 ≤ s.cfg.scratchBytes :=
  ⟨by decide, by decide, ⟨17, by decide, by decide⟩, by decide, by decide, by decide⟩

theorem test_witness_CommandsTouchTheirOwnEngineOnly :
    (∃ t, exec .sha256Compress (waiting 2 []) = .next t) ∧ Instr.sha256Compress ∉ [.sha512Init, .sha512Compress, .sha512Zero] ∧
    Instr.sha256Compress ∉ [.salsa20_8, .blockmix, .romix] ∧ Instr.sha256Compress ≠ .romix ∧
    Instr.nop ∉ [.sha256Init, .sha256Compress, .sha256Zero] ∧ validate (waiting 2 []) (encode .sha256Compress) = none :=
  ⟨⟨_, rfl⟩, by decide, by decide, by decide, by decide, by decide⟩

theorem test_witness_StepRunsPendingCommand :
    let s := waiting 0x00404021 [.unit]
    s.busy = true ∧ s.pending = some 0x00404021 ∧ decodeWord 0x00404021 = .ok (.blake2bInit 64 64) ∧ s.inbox = .unit :: [] := by
  decide

theorem test_witness_StepPerformsHostAccess :
    (scheduled [.host (.read 0x08 4)]).inbox = .host (.read 0x08 4) :: [] := rfl

theorem test_witness_IdleUnitHoldsState :
    State.reset.busy = false ∧ State.reset.inbox = [] ∧ (scheduled [.unit]).inbox = .unit :: [] := by decide

/-- The invariant holds of a state with a command pending. -/
theorem test_waiting_inv : Inv (waiting 0x00000002 [.unit]) where
  busy_pending := rfl
  err_clear := fun _ => ⟨rfl, rfl⟩
  err_code := fun h => absurd h (by decide)
  pending_valid := fun w h => by
    obtain rfl : (0x00000002 : Word) = w := Option.some.inj h
    decide
  mem_wf := rfl
  mem_mapped := fun c hc => absurd hc (by simp [waiting, State.reset, State.resetWith])
  scratch_wf := rfl
  scratch_bound := fun c hc => absurd hc (by simp [waiting, State.reset, State.resetWith])
  cfg_wf := by decide

theorem test_witness_StepKeepsInvariant : Inv (waiting 0x00000002 [.unit]) ∧ ∃ t, step (waiting 0x00000002 [.unit]) = .next t :=
  ⟨test_waiting_inv, _, rfl⟩

theorem test_witness_InvariantAtReset : Config.default.wf = true ∧ Config.wf ⟨128, 1024⟩ = true := by decide

theorem test_witness_BusyAccessKeepsInputs :
    (waiting 2 []).busy = true ∧ isSoftReset (.write 0x04 4 1) = false ∧ isSoftReset (.write 0x140 4 3) = false := by decide

/-- The three transitions: an issue, a completion, and a busy state that stays busy. -/
theorem test_witness_SequencerTransitions :
    (∃ t, step (waiting 2 [.unit]) = .next t ∧ t.busy = false) ∧
    (∃ t, step (scheduled [.host (.write 0x0C 4 2)]) = .next t ∧ t.busy = true) ∧
    (∃ t, step (waiting 2 [.host (.read 0x08 4)]) = .next t ∧ t.busy = true) :=
  ⟨⟨_, rfl, rfl⟩, ⟨_, rfl, rfl⟩, ⟨_, rfl, rfl⟩⟩

theorem test_witness_FinalizedFlagRule :
    (∃ t, step { waiting 0x00404021 [.unit] with b2fin := true } = .next t ∧ t.b2fin = false) ∧
    (∃ t, step (waiting 0x01000322 [.unit]) = .next t ∧ t.b2fin = true) :=
  ⟨⟨_, rfl, rfl⟩, ⟨_, rfl, rfl⟩⟩

theorem test_witness_ScratchIsUnobservable :
    SameButScratch (waiting 0x33 [.unit]) { waiting 0x33 [.unit] with scratch := [(7, 1)] } := rfl

theorem test_witness_RunCompletesAtEveryLatency :
    let s := scheduled (Driver.run 2 (.blake2bInit 64 0) ++ [.unit])
    s.busy = false ∧ validate s (encode (.blake2bInit 64 0)) = none ∧ s.inbox = Driver.run 2 (.blake2bInit 64 0) ++ [.unit] := by
  decide

theorem test_witness_SoftResetAbandonsCommand :
    (3 : Word).getLsbD 1 = true ∧
    (waiting 0x33 (.host (.write 0x04 4 3) :: List.replicate 2 .unit)).inbox = .host (.write 0x04 4 3) :: List.replicate 2 .unit := by
  decide

theorem test_witness_Sha2ChunkingInvariance :
    0 < Driver.sha256Engine.blockBytes ∧ (List.replicate 63 (0 : Byte)).length < Driver.sha256Engine.blockBytes := by decide

theorem test_witness_Blake2bCompressionCount : ([] : List Byte).length ≤ 64 ∧ (List.replicate 64 (1 : Byte)).length ≤ 64 := by decide

theorem test_witness_DriverBlockIsCompressed :
    let s := scheduled (Driver.sha2Block Driver.sha256Engine 1 (List.replicate 64 1))
    s.busy = false ∧ (List.replicate 64 (1 : Byte)).length = 64 ∧
    s.inbox = Driver.sha2Block Driver.sha256Engine 1 (List.replicate 64 1) := by decide +kernel

end Sys2Proof.Machine.Tests
end

section
/-! PROOF. Decoding follows the match and mask table of R94. A command's word decodes to the command and only a command's word
decodes; a word selects a row iff it is the word of a command of the row's mnemonic. -/

namespace Sys2Proof

/-! ## Decoding and encoding are inverse (30_encoding.md R96) -/

@[simp] theorem acceptIf_eq_ok {c : Bool} {i j : Instr} : acceptIf c i = .ok j ↔ c = true ∧ i = j := by
  cases c <;> simp [acceptIf]

/-- The word of a command decodes to the command. -/
theorem decodeWord_encode (i : Instr) : decodeWord (encode i) = .ok i := by
  cases i with
  | blake2bInit nn kk =>
    simp [encode, decodeWord, fieldRsv_cmdw, fieldOp_cmdw, fieldA_cmdw, fieldB_cmdw, fieldF_cmdw]
  | blake2bCompress len f =>
    simp [encode, decodeWord, fieldRsv_cmdw, fieldOp_cmdw, fieldA_cmdw, fieldB_cmdw, fieldF_cmdw]
  | _ => rfl

/-- A word with RSV = 0 is the word of its fields, each given by its value. -/
theorem cmdw_eq_of_fields {w : Word} {op a b : BitVec 8} {f : Bool} (hr : fieldRsv w = 0) (hop : fieldOp w = op)
    (hA : fieldA w = a) (hB : fieldB w = b) (hF : fieldF w = f) : cmdw op a b f = w := by
  subst hop hA hB hF
  exact cmdw_fields w hr

theorem cmdw_eq_of_fieldsZero {w : Word} {op : BitVec 8} (hr : fieldRsv w = 0) (hop : fieldOp w = op)
    (hz : fieldsZero w = true) : cmdw op 0 0 false = w := by
  simp only [fieldsZero, Bool.and_eq_true, beq_iff_eq, Bool.not_eq_true'] at hz
  obtain ⟨⟨hA, hB⟩, hF⟩ := hz
  exact cmdw_eq_of_fields hr hop hA hB hF

/-- A word that decodes to a command is the command's word. -/
theorem encode_of_decodeWord {w : Word} {i : Instr} (h : decodeWord w = .ok i) : encode i = w := by
  unfold decodeWord at h
  split at h
  · cases h
  · next hr =>
    have hr := not_not.1 hr
    split at h
    -- BLAKE2B_INIT and BLAKE2B_COMPRESS leave fields open; the last case has no command.
    case h_8 hop =>
      obtain ⟨hF, rfl⟩ := acceptIf_eq_ok.1 h
      exact cmdw_eq_of_fields hr hop rfl rfl (by simpa using hF)
    case h_9 hop =>
      obtain ⟨hB, rfl⟩ := acceptIf_eq_ok.1 h
      exact cmdw_eq_of_fields hr hop rfl (beq_iff_eq.1 hB) rfl
    case h_13 => cases h
    all_goals
      next hop =>
      obtain ⟨hz, rfl⟩ := acceptIf_eq_ok.1 h
      exact cmdw_eq_of_fieldsZero hr hop hz

/-! ## The rows of the opcode table (30_encoding.md R94) -/

theorem OpcodeRow.selects_iff {row : OpcodeRow} {w : Word} : row.selects w = true ↔ w &&& row.mask = row.value :=
  beq_iff_eq

/-- The word of a command selects a row of the command's mnemonic. -/
theorem exists_row_selects_encode (i : Instr) : Laws.RowSelects.Statement i := by
  cases i with
  | nop => exact Laws.RowSelects.nop
  | sha256Init => exact Laws.RowSelects.sha256Init
  | sha256Compress => exact Laws.RowSelects.sha256Compress
  | sha256Zero => exact Laws.RowSelects.sha256Zero
  | sha512Init => exact Laws.RowSelects.sha512Init
  | sha512Compress => exact Laws.RowSelects.sha512Compress
  | sha512Zero => exact Laws.RowSelects.sha512Zero
  | blake2bInit nn kk => exact Laws.RowSelects.blake2bInit nn kk
  | blake2bCompress len f => exact Laws.RowSelects.blake2bCompress len f
  | salsa20_8 => exact Laws.RowSelects.salsa20_8
  | blockmix => exact Laws.RowSelects.blockmix
  | romix => exact Laws.RowSelects.romix

/-! The fields that a mask keeps. -/

theorem fieldOp_and (w m : Word) : fieldOp (w &&& m) = fieldOp w &&& fieldOp m := BitVec.extractLsb'_and

theorem fieldB_and (w m : Word) : fieldB (w &&& m) = fieldB w &&& fieldB m := BitVec.extractLsb'_and

theorem fieldRsv_and (w m : Word) : fieldRsv (w &&& m) = fieldRsv w &&& fieldRsv m := BitVec.extractLsb'_and

theorem fieldF_and (w m : Word) : fieldF (w &&& m) = (fieldF w && fieldF m) := BitVec.getLsbD_and

/-- Every mask of R94 keeps OP and RSV. -/
theorem op_rsv_of_masked {w m v : Word} (h : w &&& m = v) (hop : fieldOp m = BitVec.allOnes 8)
    (hrsv : fieldRsv m = BitVec.allOnes 7) : fieldOp w = fieldOp v ∧ fieldRsv w = fieldRsv v := by
  subst h
  rw [fieldOp_and, fieldRsv_and, hop, hrsv, BitVec.and_allOnes, BitVec.and_allOnes]
  exact ⟨rfl, rfl⟩

/-- The mask of BLAKE2B_INIT leaves A and B open. -/
theorem encode_blake2bInit_of_masked {w : Word} (h : w &&& 0xFF0000FF = 0x21) :
    encode (.blake2bInit (fieldA w) (fieldB w)) = w := by
  obtain ⟨hop, hr⟩ := op_rsv_of_masked h (by decide) (by decide)
  have hF : fieldF w = false := by
    have hand := fieldF_and w 0xFF0000FF
    rw [h, show fieldF 0xFF0000FF = true by decide, Bool.and_true] at hand
    exact hand.symm
  exact cmdw_eq_of_fields hr hop rfl rfl hF

/-- The mask of BLAKE2B_COMPRESS leaves A and F open. -/
theorem encode_blake2bCompress_of_masked {w : Word} (h : w &&& 0xFEFF00FF = 0x22) :
    encode (.blake2bCompress (fieldA w) (fieldF w)) = w := by
  obtain ⟨hop, hr⟩ := op_rsv_of_masked h (by decide) (by decide)
  have hB : fieldB w = 0 := by
    have hand := fieldB_and w 0xFEFF00FF
    rw [h, show fieldB 0xFEFF00FF = BitVec.allOnes 8 by decide, BitVec.and_allOnes] at hand
    exact hand.symm
  exact cmdw_eq_of_fields hr hop rfl hB rfl

/-- A full mask is equality: the word of a command without operands. -/
theorem encode_of_full_mask {w v : Word} {i : Instr} (h : w &&& 0xFFFFFFFF = v) (hi : encode i = v) : encode i = w := by
  rw [hi, ← h]
  exact BitVec.and_allOnes

/-- A word that selects a row is the word of a command of the row's mnemonic. -/
theorem exists_encode_of_selects {row : OpcodeRow} (hrow : row ∈ opcodeRows) {w : Word} (h : row.selects w = true) :
    ∃ i, mnemonicOf i = row.mnemonic ∧ encode i = w := by
  rw [OpcodeRow.selects_iff] at h
  simp only [opcodeRows, List.mem_cons, List.not_mem_nil, or_false] at hrow
  obtain rfl | rfl | rfl | rfl | rfl | rfl | rfl | rfl | rfl | rfl | rfl | rfl := hrow
  · exact ⟨.nop, rfl, encode_of_full_mask h rfl⟩
  · exact ⟨.sha256Init, rfl, encode_of_full_mask h rfl⟩
  · exact ⟨.sha256Compress, rfl, encode_of_full_mask h rfl⟩
  · exact ⟨.sha256Zero, rfl, encode_of_full_mask h rfl⟩
  · exact ⟨.sha512Init, rfl, encode_of_full_mask h rfl⟩
  · exact ⟨.sha512Compress, rfl, encode_of_full_mask h rfl⟩
  · exact ⟨.sha512Zero, rfl, encode_of_full_mask h rfl⟩
  · exact ⟨_, rfl, encode_blake2bInit_of_masked h⟩
  · exact ⟨_, rfl, encode_blake2bCompress_of_masked h⟩
  · exact ⟨.salsa20_8, rfl, encode_of_full_mask h rfl⟩
  · exact ⟨.blockmix, rfl, encode_of_full_mask h rfl⟩
  · exact ⟨.romix, rfl, encode_of_full_mask h rfl⟩

/-- The table has one row per mnemonic. -/
theorem row_eq_of_mnemonic_eq : ∀ p ∈ opcodeRows, ∀ q ∈ opcodeRows, p.mnemonic = q.mnemonic → p = q := by decide

theorem encode_injective {i j : Instr} (h : encode i = encode j) : i = j := by
  have hd := decodeWord_encode i
  rw [h, decodeWord_encode] at hd
  exact (Except.ok.inj hd).symm

/-- Settles O2: decoding and encoding are inverse, and a word selects a row iff it is the word of a command of the row's mnemonic;
a word is the word of one command only, and a mnemonic has one row. -/
theorem decodeFollowsOpcodeTable : Obligations.DecodeFollowsOpcodeTable := by
  refine ⟨fun w m => ⟨?_, ?_⟩, fun w p hp q hq hpw hqw => ?_⟩
  · rintro ⟨i, hd, rfl⟩
    obtain ⟨row, hrow, hm, hs⟩ := exists_row_selects_encode i
    rw [encode_of_decodeWord hd] at hs
    exact ⟨row, hrow, hm, OpcodeRow.selects_iff.1 hs⟩
  · rintro ⟨row, hrow, rfl, hs⟩
    obtain ⟨i, hm, rfl⟩ := exists_encode_of_selects hrow (OpcodeRow.selects_iff.2 hs)
    exact ⟨i, decodeWord_encode i, hm⟩
  · obtain ⟨i, hi, rfl⟩ := exists_encode_of_selects hp hpw
    obtain ⟨j, hj, hji⟩ := exists_encode_of_selects hq hqw
    obtain rfl := encode_injective hji
    exact row_eq_of_mnemonic_eq p hp q hq (hi.symm.trans hj)

end Sys2Proof
end

section
/-! PROOF. BLAKE2B_COMPRESS once finalized (43_blake2b.md R222). -/

namespace Sys2Proof.Machine

/-- The validation of a command's word is the validation of the command. -/
@[simp] theorem validate_encode (s : State) (i : Instr) : validate s (encode i) = validateInstr s i := by
  rw [validate, decodeWord_encode]

/-- Once finalized, BLAKE2B_COMPRESS has no effect (R222). -/
theorem blake2bCompressEffect_of_b2fin {s : State} (h : s.b2fin = true) (len : BitVec 8) (f : Bool) :
    blake2bCompressEffect len f s = s :=
  if_pos h

/-- Settles O32: the compress that validates completes with its effect, which is none once B2FIN = 1. -/
theorem finalizedCompressIsNoOp : Obligations.FinalizedCompressIsNoOp := by
  intro s len f hfin hvalid
  rw [validate_encode] at hvalid
  have heffect : effectOf (.blake2bCompress len f) s = s := blake2bCompressEffect_of_b2fin hfin len f
  rw [exec_of_valid hvalid, heffect]
  rfl

end Sys2Proof.Machine
end

section
/-! PROOF. BlockMix's running block and the order of its output (44_salsa_scrypt.md R245, R246). -/

namespace Sys2Proof.Machine

/-- The first mixed chunk comes from the block that the run starts with (R245). -/
theorem getD_mixChunks_zero (T : List Byte) {Bs : List (List Byte)} (h : 0 < Bs.length) :
    (mixChunks T Bs).getD 0 [] = salsa20_8 (xorBytes T (Bs.getD 0 [])) := by
  cases Bs with
  | nil => simp at h
  | cons B Bs => rfl

/-- Each later mixed chunk comes from the one before it (R245). -/
theorem getD_mixChunks_succ (T : List Byte) {Bs : List (List Byte)} {i : Nat} (h : i + 1 < Bs.length) :
    (mixChunks T Bs).getD (i + 1) [] = salsa20_8 (xorBytes ((mixChunks T Bs).getD i []) (Bs.getD (i + 1) [])) := by
  induction Bs generalizing T i with
  | nil => simp at h
  | cons B Bs ih =>
    have htail : i < Bs.length := by simpa using h
    cases i with
    | zero => exact getD_mixChunks_zero _ htail
    | succ i => exact ih _ htail

theorem length_evens {α : Type} : (l : List α) → (evens l).length = (l.length + 1) / 2
  | [] => by simp [evens]
  | [_] => by simp [evens]
  | _ :: _ :: l => by
    simp only [evens, List.length_cons, length_evens l]
    omega

theorem getD_evens {α : Type} (d : α) : (l : List α) → (k : Nat) → (evens l).getD k d = l.getD (2 * k) d
  | [], _ => rfl
  | [_], 0 => rfl
  | [_], _ + 1 => rfl
  | _ :: _ :: _, 0 => rfl
  | _ :: _ :: l, k + 1 => getD_evens d l k

theorem getD_odds {α : Type} (d : α) : (l : List α) → (k : Nat) → (odds l).getD k d = l.getD (2 * k + 1) d
  | [], _ => rfl
  | [_], _ => rfl
  | _ :: _ :: _, 0 => rfl
  | _ :: _ :: l, k + 1 => getD_odds d l k

/-- The chunks of 64-byte strings laid end to end are those strings. -/
theorem chunk_flatten {L : List (List Byte)} (h : ∀ Y ∈ L, Y.length = 64) (k : Nat) : chunk L.flatten k = L.getD k [] := by
  induction L generalizing k with
  | nil => simp [chunk]
  | cons Y L ih =>
    have hY : Y.length = 64 := h Y List.mem_cons_self
    cases k with
    | zero => simp [chunk, ← hY]
    | succ k =>
      have hdrop : (Y ++ L.flatten).drop (64 * (k + 1)) = L.flatten.drop (64 * k) := by
        rw [show 64 * (k + 1) = Y.length + 64 * k by omega, List.drop_length_add_append]
      rw [chunk, List.flatten_cons, hdrop, List.getD_cons_succ]
      exact ih (fun Z hZ => h Z (List.mem_cons_of_mem _ hZ)) k

/-- The mixed chunks of a BlockMix in the order they are made, the chunks of `B` XORed into its last one (R245). -/
def mixedChunks (r : Nat) (B : List Byte) : List (List Byte) :=
  mixChunks (chunk B (2 * r - 1)) ((List.range (2 * r)).map (chunk B))

theorem blockmix_eq (r : Nat) (B : List Byte) :
    blockmix r B = (evens (mixedChunks r B) ++ odds (mixedChunks r B)).flatten := rfl

theorem length_evens_mixedChunks (r : Nat) (B : List Byte) : (evens (mixedChunks r B)).length = r := by
  rw [length_evens, mixedChunks, length_mixChunks, List.length_map, List.length_range]
  omega

theorem getD_map_chunk (B : List Byte) {n i : Nat} (h : i < n) :
    ((List.range n).map (chunk B)).getD i [] = chunk B i := by
  simp [h]

theorem mixedChunks_zero {r : Nat} (B : List Byte) (h : 0 < 2 * r) :
    (mixedChunks r B).getD 0 [] = salsa20_8 (xorBytes (chunk B (2 * r - 1)) (chunk B 0)) := by
  rw [mixedChunks, getD_mixChunks_zero _ (by simpa using h), getD_map_chunk B h]

theorem mixedChunks_succ {r i : Nat} (B : List Byte) (h : i + 1 < 2 * r) :
    (mixedChunks r B).getD (i + 1) [] = salsa20_8 (xorBytes ((mixedChunks r B).getD i []) (chunk B (i + 1))) := by
  rw [mixedChunks, getD_mixChunks_succ _ (by simpa using h), getD_map_chunk B h]

/-- The chunks of BlockMix's output are the even-indexed mixed chunks, then the odd-indexed. -/
theorem chunk_blockmix (r : Nat) (B : List Byte) (k : Nat) :
    chunk (blockmix r B) k = (evens (mixedChunks r B) ++ odds (mixedChunks r B)).getD k [] := by
  rw [blockmix_eq, chunk_flatten]
  exact fun Y hY => mem_mixChunks ((evens_odds_perm _).mem_iff.1 hY)

/-- The first half of BlockMix's output (R245). -/
theorem chunk_blockmix_low {r k : Nat} (B : List Byte) (h : k < r) :
    chunk (blockmix r B) k = (mixedChunks r B).getD (2 * k) [] := by
  have hk : k < (evens (mixedChunks r B)).length := by rwa [length_evens_mixedChunks]
  rw [chunk_blockmix, List.getD_append _ _ _ _ hk, getD_evens]

/-- The second half of BlockMix's output (R245). -/
theorem chunk_blockmix_high (r k : Nat) (B : List Byte) :
    chunk (blockmix r B) (r + k) = (mixedChunks r B).getD (2 * k + 1) [] := by
  have hk : (evens (mixedChunks r B)).length ≤ r + k := by
    rw [length_evens_mixedChunks]
    exact Nat.le_add_right r k
  rw [chunk_blockmix, List.getD_append_right _ _ _ _ hk, length_evens_mixedChunks, Nat.add_sub_cancel_left, getD_odds]

/-- Settles O38: the running block is the list of mixed chunks, and the output is its even-indexed half, then its odd-indexed. -/
theorem blockmixChunkOrder : Obligations.BlockmixChunkOrder := by
  intro r B hr _
  exact ⟨fun i => (mixedChunks r B).getD i [], mixedChunks_zero B (by omega), fun i hi => mixedChunks_succ B hi,
    length_blockmix r B, fun k hk => ⟨chunk_blockmix_low B hk, chunk_blockmix_high r k B⟩⟩

end Sys2Proof.Machine
end

section
/-! PROOF. Integerify as reduction modulo the cost (44_salsa_scrypt.md R248). -/

namespace Sys2Proof.Machine

theorem integerify_lt {N : Nat} (X : List Byte) (r : Nat) (h : 0 < N) : integerify X N r < N :=
  Nat.lt_of_le_pred h Nat.and_le_right

theorem integerify_two_pow (X : List Byte) (k r : Nat) :
    integerify X (2 ^ k) r = (le32 X (128 * r - 64)).toNat % 2 ^ k :=
  Nat.and_two_pow_sub_one_eq_mod _ k

/-- The little-endian integer of the `n` bytes of `X` from index `a` (R248). -/
def leNat (X : List Byte) (a n : Nat) : Nat :=
  ((List.range n).map fun i => (byteAt X (a + i)).toNat * 2 ^ (8 * i)).sum

theorem leNat_succ (X : List Byte) (a n : Nat) :
    leNat X a (n + 1) = leNat X a n + (byteAt X (a + n)).toNat * 2 ^ (8 * n) :=
  List.sum_range_succ _ n

theorem leNat_four (X : List Byte) (a : Nat) : leNat X a 4 = (le32 X a).toNat := by
  rw [le32_toNat]
  simp only [leNat, List.sum_range_succ, List.range_zero, List.map_nil, List.sum_nil, Nat.zero_add, Nat.add_zero,
    Nat.mul_zero, Nat.mul_one, Nat.pow_zero]

/-- Four bytes or more are their low word modulo 2^32: every byte above it adds a multiple of 2^32. -/
theorem leNat_modEq_le32 (X : List Byte) (a n : Nat) : leNat X a (4 + n) ≡ (le32 X a).toNat [MOD 2 ^ 32] := by
  induction n with
  | zero => rw [leNat_four]
  | succ n ih =>
    have hbyte : 2 ^ 32 ∣ (byteAt X (a + (4 + n))).toNat * 2 ^ (8 * (4 + n)) :=
      (pow_dvd_pow 2 (by omega)).mul_left _
    calc leNat X a (4 + n + 1)
        = leNat X a (4 + n) + (byteAt X (a + (4 + n))).toNat * 2 ^ (8 * (4 + n)) := leNat_succ X a (4 + n)
      _ ≡ (le32 X a).toNat + 0 [MOD 2 ^ 32] := ih.add (Nat.modEq_zero_iff_dvd.2 hbyte)

/-- Settles O41: a mask of low bits is a remainder, and the bytes above the low word add a multiple of 2^32. -/
theorem integerifyIsModulo : Obligations.IntegerifyIsModulo := by
  rintro X N r k rfl
  have hmod := integerify_two_pow X k r
  refine ⟨rfl, hmod, integerify_lt X r (Nat.two_pow_pos k), fun hk => ?_⟩
  have hdvd : 2 ^ k ∣ 2 ^ 32 := pow_dvd_pow 2 (by omega)
  exact hmod.trans ((leNat_modEq_le32 X (128 * r - 64) 60).of_dvd hdvd).symm

end Sys2Proof.Machine
end

section
/-! PROOF. ROMix through the scratch ports is the sequential algorithm (44_salsa_scrypt.md R249, R252, R254). -/

namespace Sys2Proof.Machine

/-! ## The ports: an entry read after a write (R252) -/

theorem vRead_vWrite_same {r : Nat} {blk : List Byte} (V : Memory) (i : Nat) (h : blk.length = 128 * r) :
    vRead (vWrite V r i blk) r i = blk := by
  rw [vRead, vWrite, ← h]
  exact Memory.readBytes_writeBytes_same V _ blk

theorem vRead_vWrite_of_lt {r i j : Nat} {blk : List Byte} (V : Memory) (h : j < i) :
    vRead (vWrite V r i blk) r j = vRead V r j := by
  refine Memory.readBytes_writeBytes_disjoint V _ blk _ _ (.inl ?_)
  calc 128 * r * j + 128 * r = 128 * r * (j + 1) := (Nat.mul_succ _ _).symm
    _ ≤ 128 * r * i := Nat.mul_le_mul_left _ h

/-! ## The fill phase -/

theorem romixFill_fst (r n i : Nat) (X : List Byte) (V : Memory) : (romixFill r n i X V).1 = (blockmix r)^[n] X := by
  induction n generalizing i X V with
  | zero => rfl
  | succ n ih => exact ih (i + 1) (blockmix r X) (vWrite V r i X)

/-- The entries below the first one filled are left alone. -/
theorem vRead_romixFill_of_lt {r n i j : Nat} (X : List Byte) (V : Memory) (h : j < i) :
    vRead (romixFill r n i X V).2 r j = vRead V r j := by
  induction n generalizing i X V with
  | zero => rfl
  | succ n ih =>
    calc vRead (romixFill r n (i + 1) (blockmix r X) (vWrite V r i X)).2 r j
        = vRead (vWrite V r i X) r j := ih _ _ (Nat.lt_succ_of_lt h)
      _ = vRead V r j := vRead_vWrite_of_lt V h

/-- The entries filled hold the successive blocks of the fill phase, whatever the table held (R249, R254). -/
theorem vRead_romixFill {r n i k : Nat} {X : List Byte} (V : Memory) (hX : X.length = 128 * r) (hk : k < n) :
    vRead (romixFill r n i X V).2 r (i + k) = (blockmix r)^[k] X := by
  induction n generalizing i k X V with
  | zero => simp at hk
  | succ n ih =>
    cases k with
    | zero =>
      calc vRead (romixFill r n (i + 1) (blockmix r X) (vWrite V r i X)).2 r i
          = vRead (vWrite V r i X) r i := vRead_romixFill_of_lt _ _ (Nat.lt_succ_self i)
        _ = X := vRead_vWrite_same V i hX
    | succ k =>
      rw [show i + (k + 1) = i + 1 + k by omega]
      exact ih (vWrite V r i X) (length_blockmix r X) (Nat.lt_of_succ_lt_succ hk)

/-! ## The mix phase -/

/-- One iteration of the mix phase, over a table read as the function `entry` (R249). -/
def mixStep (N r : Nat) (entry : Nat → List Byte) (X : List Byte) : List Byte :=
  blockmix r (xorBytes X (entry (integerify X N r)))

theorem romixMix_eq_iterate (N r : Nat) (V : Memory) (n : Nat) (X : List Byte) :
    romixMix N r V n X = (mixStep N r (vRead V r))^[n] X := by
  induction n generalizing X with
  | zero => rfl
  | succ n ih => exact ih (mixStep N r (vRead V r) X)

/-- The mix phase reads no entry at or above the cost, so tables that agree below it give one result. -/
theorem mixStep_congr {N : Nat} (r : Nat) {entry entry' : Nat → List Byte} (hN : 0 < N)
    (h : ∀ j, j < N → entry j = entry' j) : mixStep N r entry = mixStep N r entry' := by
  funext X
  rw [mixStep, mixStep, h _ (integerify_lt X r hN)]

/-- ROMix reads back what its own fill phase wrote (R249, R254). -/
theorem romix_eq_iterate {r : Nat} {B : List Byte} (N : Nat) (V : Memory) (hB : B.length = 128 * r) :
    (romix N r B V).1 = (mixStep N r fun j => (blockmix r)^[j] B)^[N] ((blockmix r)^[N] B) := by
  rcases Nat.eq_zero_or_pos N with rfl | hN
  · rfl
  have hentry : ∀ j, j < N → vRead (romixFill r N 0 B V).2 r j = (blockmix r)^[j] B := fun j hj => by
    simpa using vRead_romixFill (i := 0) V hB hj
  calc romixMix N r (romixFill r N 0 B V).2 N (romixFill r N 0 B V).1
      = (mixStep N r (vRead (romixFill r N 0 B V).2 r))^[N] ((blockmix r)^[N] B) := by
        rw [romixMix_eq_iterate, romixFill_fst]
    _ = (mixStep N r fun j => (blockmix r)^[j] B)^[N] ((blockmix r)^[N] B) := by
        rw [mixStep_congr r hN hentry]

/-- Settles O42: the blocks of the fill phase and of the mix phase are iterates, the table being the former. -/
theorem romixIsSequential : Obligations.RomixIsSequential := by
  intro N r B V hB
  refine ⟨fun i => (blockmix r)^[i] B,
    fun i => (mixStep N r fun j => (blockmix r)^[j] B)^[i] ((blockmix r)^[N] B),
    rfl, fun i _ => Function.iterate_succ_apply' _ i B, rfl, fun i hi => ⟨?_, ?_⟩, romix_eq_iterate N V hB⟩
  · exact integerify_lt _ r (Nat.zero_lt_of_lt hi)
  · exact Function.iterate_succ_apply' _ i _

end Sys2Proof.Machine
end

section
/-! PROOF. What the host port answers, access by access (45_control.md R281 to R283), and the offsets that answer with a bus error
(R282; 20_memory.md R64, R65). -/

namespace Sys2Proof.Machine

/-- An access reaches a location iff its size is 4 and the table of R23 lists its offset. -/
theorem exists_decodeAccess_iff {c : Config} {off size : Nat} :
    (∃ l, decodeAccess c off size = some l) ↔ size = 4 ∧ (controlOffset off ∨ dataOffset c off) := by
  constructor
  · rintro ⟨l, hl⟩
    obtain ⟨hsize, hoff, -⟩ := decodeAccess_eq_some hl
    exact ⟨hsize, hoff⟩
  · rintro ⟨rfl, hoff | hoff⟩
    · obtain ⟨l, hl, -⟩ := decodeAccess_of_controlOffset hoff
      exact ⟨l, hl⟩
    · obtain ⟨l, hl, -⟩ := decodeAccess_of_dataOffset hoff
      exact ⟨l, hl⟩

section
variable {s : State} {off size : Nat} {l : Loc}

theorem hostRead_of_some (h : decodeAccess s.cfg off size = some l) : hostRead s off size = .value (readLoc s l) := by
  rw [hostRead, h]

theorem hostRead_of_none (h : decodeAccess s.cfg off size = none) : hostRead s off size = .busError off := by
  rw [hostRead, h]

theorem hostWrite_of_some (v : Word) (h : decodeAccess s.cfg off size = some l) :
    hostWrite s off size v = (writeLoc s v l, .written) := by
  rw [hostWrite, h]

theorem hostWrite_of_none (v : Word) (h : decodeAccess s.cfg off size = none) :
    hostWrite s off size v = (s, .busError off) := by
  rw [hostWrite, h]

end

/-- A host read changes the replies only. -/
theorem hostAccess_read (s : State) (off size : Nat) :
    hostAccess s (.read off size) = { s with replies := hostRead s off size :: s.replies } := rfl

/-- A write that reaches a location is answered on the replies there were, the location's write leaving them alone. -/
theorem hostAccess_write_of_some {s : State} {off size : Nat} {l : Loc} (v : Word)
    (h : decodeAccess s.cfg off size = some l) :
    hostAccess s (.write off size v) = { writeLoc s v l with replies := .written :: s.replies } := by
  rw [hostAccess, hostWrite_of_some v h, State.reply, writeLoc_replies]

theorem hostAccess_write_of_none {s : State} {off size : Nat} (v : Word) (h : decodeAccess s.cfg off size = none) :
    hostAccess s (.write off size v) = { s with replies := .busError off :: s.replies } := by
  rw [hostAccess, hostWrite_of_none v h, State.reply]

/-- Settles O9: the accesses that reach a location are the word accesses at the offsets of R23; the others answer a bus error. -/
theorem busErrorExactlyWhenUnmapped : Obligations.BusErrorExactlyWhenUnmapped := by
  intro s off size v
  rw [← exists_decodeAccess_iff]
  constructor
  · rintro ⟨l, hl⟩
    refine ⟨⟨readLoc s l, ?_⟩, writeLoc s v l, hostAccess_write_of_some v hl⟩
    rw [hostAccess_read, hostRead_of_some hl]
  · intro hunmapped
    have hnone : decodeAccess s.cfg off size = none :=
      Option.eq_none_iff_forall_ne_some.2 fun l hl => hunmapped ⟨l, hl⟩
    refine ⟨?_, hostAccess_write_of_none v hnone⟩
    rw [hostAccess_read, hostRead_of_none hnone]

end Sys2Proof.Machine
end

section
/-! PROOF. Reads while a command is pending (45_control.md R285). -/

namespace Sys2Proof.Machine

/-- BUSY is seen in the data locations and in STATUS only (R281, R285). -/
theorem readLoc_setBusy (s : State) (b : Bool) {l : Loc} (hdata : l.isData = false) (hstatus : l ≠ .status) :
    readLoc { s with busy := b } l = readLoc s l := by
  cases l with
  | status => exact absurd rfl hstatus
  | h256 | h512Hi | h512Lo | b2hLo | b2hHi | b2t | buffer => cases hdata
  | _ => rfl

/-- BUSY is bit 0 of STATUS (R32). -/
theorem statusWord_of_busy {s : State} (h : s.busy = true) :
    s.statusWord = State.statusWord { s with busy := false } ||| 1 := by
  have hset : flagAt true 0 = 1 := rfl
  have hclear : flagAt false 0 = 0 := rfl
  simp only [State.statusWord, h, hset, hclear]
  ac_rfl

/-- Settles O14: BUSY = 1 turns every data location to 0, shows in STATUS as its bit 0, and in no other control register. -/
theorem busyReadsGiveZero : Obligations.BusyReadsGiveZero := by
  intro s off hbusy
  refine ⟨fun hoff => ?_, fun hoff hne => ?_, s.statusWord, State.statusWord { s with busy := false }, rfl, rfl,
    statusWord_of_busy hbusy⟩
  · obtain ⟨l, hl, hdata, -⟩ := decodeAccess_of_dataOffset hoff
    rw [hostAccess_read, hostRead_of_some hl, readLoc_of_isData hdata, if_pos hbusy]
  · obtain ⟨l, hl, hdata, rfl⟩ := decodeAccess_of_controlOffset (c := s.cfg) hoff
    have hstatus : l ≠ .status := fun h => hne (congrArg Loc.offset h)
    rw [hostRead_of_some hl, hostRead_of_some (s := { s with busy := false }) hl, readLoc_setBusy s false hdata hstatus]

end Sys2Proof.Machine
end

section
/-! PROOF. The bits of a write that CTRL and STATUS take (45_control.md R287 to R289). -/

namespace Sys2Proof.Machine

@[simp] theorem hostWrite_ctrl (s : State) (v : Word) : hostWrite s 0x04 4 v = (s.ctrlWrite v, .written) := rfl

@[simp] theorem hostWrite_status (s : State) (v : Word) : hostWrite s 0x08 4 v = (s.statusWrite v, .written) := rfl

/-- Words that agree under a mask agree in every bit of the mask. -/
theorem getLsbD_eq_of_and_eq {w : Nat} {v u m : BitVec w} (h : v &&& m = u &&& m) {i : Nat} (hi : m.getLsbD i = true) :
    v.getLsbD i = u.getLsbD i := by
  simpa [hi] using congrArg (·.getLsbD i) h

/-- CTRL takes bits 1:0 (R289). -/
theorem ctrlWrite_congr (s : State) {v u : Word} (h : v &&& 0x3 = u &&& 0x3) : s.ctrlWrite v = s.ctrlWrite u := by
  rw [State.ctrlWrite, State.ctrlWrite, getLsbD_eq_of_and_eq h (i := 0) rfl, getLsbD_eq_of_and_eq h (i := 1) rfl]

/-- STATUS takes bits 3:1 (R288). -/
theorem statusWrite_congr (s : State) {v u : Word} (h : v &&& 0xE = u &&& 0xE) : s.statusWrite v = s.statusWrite u := by
  rw [State.statusWrite, State.statusWrite, getLsbD_eq_of_and_eq h (i := 1) rfl, getLsbD_eq_of_and_eq h (i := 2) rfl,
    getLsbD_eq_of_and_eq h (i := 3) rfl]

/-- Settles O16: the four read-only registers ignore a write, and the writes of CTRL and STATUS look at their own bits only. -/
theorem readOnlyWritesAreIgnored : Obligations.ReadOnlyWritesAreIgnored := by
  refine ⟨fun s off v hoff => ?_, fun s v u h => ?_, fun s v u h => ?_⟩
  · rcases hoff with rfl | rfl | rfl | rfl <;> rfl
  · rw [hostWrite_ctrl, hostWrite_ctrl, ctrlWrite_congr s h]
  · rw [hostWrite_status, hostWrite_status, statusWrite_congr s h]

end Sys2Proof.Machine
end

section
/-! PROOF. The STATUS write (45_control.md R288). -/

namespace Sys2Proof.Machine

theorem ite_clearDone (s : State) (b : Bool) :
    (if b = true then s.clearDone else s) = { s with done := s.done && !b } := by
  cases b <;> simp [State.clearDone]

theorem ite_clearErr (s : State) (b : Bool) :
    (if b = true then s.clearErr else s) =
      { s with
          err := s.err && !b
          errcode := if b = true then 0 else s.errcode
          errcmd := if b = true then 0 else s.errcmd } := by
  cases b <;> simp [State.clearErr]

theorem ite_clearBusywr (s : State) (b : Bool) :
    (if b = true then s.clearBusywr else s) = { s with busywr := s.busywr && !b } := by
  cases b <;> simp [State.clearBusywr]

/-- Every field after a STATUS write: a one clears its flag, and bit 2 the error record with it. -/
theorem statusWrite_eq (s : State) (v : Word) :
    s.statusWrite v =
      { s with
          done := s.done && !v.getLsbD 1
          err := s.err && !v.getLsbD 2
          errcode := if v.getLsbD 2 = true then 0 else s.errcode
          errcmd := if v.getLsbD 2 = true then 0 else s.errcmd
          busywr := s.busywr && !v.getLsbD 3 } := by
  simp only [State.statusWrite, ite_clearDone, ite_clearErr, ite_clearBusywr]

/-- A command that has run to its end, completed or rejected, leaves DONE = 1. -/
theorem done_of_exec {i : Instr} {s t : State} (h : exec i s = .next t) : t.done = true := by
  rcases exec_cases i s with ⟨-, hnext⟩ | ⟨e, -, hnext⟩
  all_goals
    obtain rfl := Host.Outcome.next.inj (hnext.symm.trans h)
    rfl

/-- Settles O17: a STATUS write field by field, and DONE at the end of every command, from whatever state. -/
theorem statusWriteClearsByOnes : Obligations.StatusWriteClearsByOnes := by
  refine ⟨fun s v => ?_, fun _ _ _ h => done_of_exec h⟩
  rw [hostWrite_status, statusWrite_eq]

end Sys2Proof.Machine
end

section
/-! PROOF. The CMD write of an idle block (45_control.md R284; 60_exceptions.md R342). -/

namespace Sys2Proof.Machine

/-- An idle block issues the word written to CMD (R283). -/
theorem hostWrite_cmd_of_idle {s : State} (w : Word) (hidle : s.busy = false) :
    hostWrite s 0x0C 4 w = (issue s w, .written) := by
  have hcmd : decodeAccess s.cfg 0x0C 4 = some .cmd := rfl
  simp [hostWrite_of_some w hcmd, writeLoc, writeIdle, hidle]

theorem issue_of_some {s : State} {w : Word} {e : CmdError} (h : validate s w = some e) : issue s w = s.reject e w := by
  rw [issue, h]

theorem issue_of_none {s : State} {w : Word} (h : validate s w = none) : issue s w = s.accept w := by
  rw [issue, h]

/-- Settles O22: an idle block issues the word, which its validation either rejects or accepts. -/
theorem commandIssue : Obligations.CommandIssue := by
  intro s w hidle
  rw [hostWrite_cmd_of_idle w hidle]
  refine ⟨fun e hreject => ?_, fun haccept => ?_⟩
  · rw [issue_of_some hreject, State.reject]
  · rw [issue_of_none haccept, State.accept]

end Sys2Proof.Machine
end

section
/-! PROOF. What decodes and what validates (30_encoding.md R91, R95, R96; 60_exceptions.md R340 to R343). -/

namespace Sys2Proof

/-- Settles O1: a command's word decodes to the command, and only its word does. -/
theorem decodeIffEncode : Obligations.DecodeIffEncode :=
  fun _ i => ⟨fun h => (encode_of_decodeWord h).symm, fun h => h ▸ decodeWord_encode i⟩

/-- Settles O3: the decoder on each of the words. -/
theorem wordsOfTheSpecDecode : Obligations.WordsOfTheSpecDecode := by
  unfold Obligations.WordsOfTheSpecDecode
  decide

/-- A word that matches no row of R94 decodes to no command. -/
theorem decodeWord_of_no_row {w : Word} (h : ∀ row ∈ opcodeRows, w &&& row.mask ≠ row.value) :
    ∃ x, decodeWord w = .error x := by
  cases hd : decodeWord w with
  | error x => exact ⟨x, rfl⟩
  | ok i =>
    obtain ⟨row, hrow, -, hmatch⟩ := (decodeFollowsOpcodeTable.1 w (mnemonicOf i)).1 ⟨i, hd, rfl⟩
    exact absurd hmatch (h row hrow)

end Sys2Proof

namespace Sys2Proof.Machine

theorem validate_of_decodeWord_ok {w : Word} {i : Instr} (s : State) (h : decodeWord w = .ok i) :
    validate s w = validateInstr s i := by
  rw [validate, h]

theorem validate_of_decodeWord_error {w : Word} {x : Illegal} (s : State) (h : decodeWord w = .error x) :
    validate s w = some .illegalCmd := by
  rw [validate, h]

/-! ## BLAKE2b operands (43_blake2b.md R212, R213) -/

theorem validateInstr_blake2bInit (s : State) (nn kk : BitVec 8) :
    validateInstr s (.blake2bInit nn kk) =
      if nn.toNat = 0 ∨ 64 < nn.toNat then some .badOutlen else if 64 < kk.toNat then some .badKeylen else none := rfl

theorem validateInstr_blake2bCompress (s : State) (len : BitVec 8) (f : Bool) :
    validateInstr s (.blake2bCompress len f) = if 128 < len.toNat then some .badBlocklen else none := rfl

theorem validateInstr_blake2bInit_eq_none {s : State} {nn kk : BitVec 8} :
    validateInstr s (.blake2bInit nn kk) = none ↔ 1 ≤ nn.toNat ∧ nn.toNat ≤ 64 ∧ kk.toNat ≤ 64 := by
  rw [validateInstr_blake2bInit]
  split_ifs <;> simp <;> omega

theorem validateInstr_blake2bCompress_eq_none {s : State} {len : BitVec 8} {f : Bool} :
    validateInstr s (.blake2bCompress len f) = none ↔ len.toNat ≤ 128 := by
  rw [validateInstr_blake2bCompress]
  split_ifs <;> simp <;> omega

/-- Settles O4: the two BLAKE2b commands by their operand ranges; the others have none and always validate. -/
theorem wellFormedIffAccepted : Obligations.WellFormedIffAccepted := by
  intro i s hblockmix hromix
  rw [validate_encode]
  cases i with
  | blake2bInit nn kk => simp [WellFormed, validateInstr_blake2bInit_eq_none]
  | blake2bCompress len f => simp [WellFormed, validateInstr_blake2bCompress_eq_none]
  | blockmix => exact absurd rfl hblockmix
  | romix => exact absurd rfl hromix
  | _ => exact iff_of_true rfl rfl

/-- Settles O23: a word in no row does not decode, and an idle block rejects it. -/
theorem illegalWordIsRejected : Obligations.IllegalWordIsRejected := by
  intro s w hidle hrow
  obtain ⟨x, hx⟩ := decodeWord_of_no_row hrow
  rw [hostWrite_cmd_of_idle w hidle, issue_of_some (validate_of_decodeWord_error s hx)]
  rfl

/-- Settles O24: the checks of the two commands in their order. -/
theorem blake2bOperandChecks : Obligations.Blake2bOperandChecks := by
  intro s nn kk len f
  rw [validate_encode, validate_encode, validateInstr_blake2bInit, validateInstr_blake2bCompress]
  constructor
  · split_ifs <;> rfl
  · split_ifs <;> rfl

/-! ## Scrypt operands (44_salsa_scrypt.md R247, R256, R257) -/

/-- The mask test of R257 says that the cost is no power of two from 2 on. -/
theorem costRejected_iff {N : Nat} : (N < 2 ∨ N &&& (N - 1) ≠ 0) ↔ ¬ ∃ k, 1 ≤ k ∧ N = 2 ^ k := by
  rw [← not_iff_not, not_not, not_or, not_lt, not_not]
  constructor
  · rintro ⟨hN, hmask⟩
    obtain ⟨k, rfl⟩ := (Nat.and_sub_one_eq_zero_iff_isPowerOfTwo (by omega)).1 hmask
    refine ⟨k, ?_, rfl⟩
    rcases k with _ | k
    · simp at hN
    · omega
  · rintro ⟨k, hk, rfl⟩
    have htwo : 2 ^ 1 ≤ 2 ^ k := Nat.pow_le_pow_right (by decide) hk
    exact ⟨htwo, (Nat.and_sub_one_eq_zero_iff_isPowerOfTwo (by omega)).2 ⟨k, rfl⟩⟩

theorem romixVerdict_of_tooLarge {c : Config} {N r p : Nat} (h : 2 ^ 30 ≤ r * p) :
    romixVerdict c N r p = some .tooLarge := if_pos h

theorem romixVerdict_of_invalidCost {c : Config} {N r p : Nat} (hrp : r * p < 2 ^ 30) (hN : ¬ ∃ k, 1 ≤ k ∧ N = 2 ^ k) :
    romixVerdict c N r p = some .invalidCost := by
  rw [romixVerdict, if_neg (Nat.not_le.2 hrp), if_pos (costRejected_iff.2 hN)]

theorem romixVerdict_of_cost {c : Config} {N r p : Nat} (hrp : r * p < 2 ^ 30) (hN : ∃ k, 1 ≤ k ∧ N = 2 ^ k) :
    romixVerdict c N r p =
      if r = 0 ∨ p = 0 then some .zeroParam
      else if c.xbufBytes < 128 * r * p ∨ c.scratchBytes < 128 * r * N then some .capacity
      else none := by
  rw [romixVerdict, if_neg (Nat.not_le.2 hrp), if_neg (fun h => costRejected_iff.1 h hN)]

/-- ROMIX validates iff none of its checks applies. -/
theorem romixVerdict_eq_none {c : Config} {N r p : Nat} :
    romixVerdict c N r p = none ↔
      r * p < 2 ^ 30 ∧ (∃ k, 1 ≤ k ∧ N = 2 ^ k) ∧ r ≠ 0 ∧ p ≠ 0 ∧ 128 * r * p ≤ c.xbufBytes ∧ 128 * r * N ≤ c.scratchBytes := by
  by_cases hrp : r * p < 2 ^ 30
  · by_cases hN : ∃ k, 1 ≤ k ∧ N = 2 ^ k
    · rw [romixVerdict_of_cost hrp hN]
      split_ifs with hzero hcap
      · exact iff_of_false nofun fun ⟨_, _, hr, hp, _⟩ => hzero.elim hr hp
      · exact iff_of_false nofun fun ⟨_, _, _, _, hx, hv⟩ => hcap.elim hx.not_gt hv.not_gt
      · rw [not_or] at hzero
        rw [not_or, not_lt, not_lt] at hcap
        exact iff_of_true rfl ⟨hrp, hN, hzero.1, hzero.2, hcap⟩
    · rw [romixVerdict_of_invalidCost hrp hN]
      exact iff_of_false nofun fun ⟨_, h, _⟩ => hN h
  · rw [romixVerdict_of_tooLarge (Nat.not_lt.1 hrp)]
    exact iff_of_false nofun fun ⟨h, _⟩ => hrp h

theorem validateInstr_romix (s : State) :
    validateInstr s .romix = romixVerdict s.cfg s.scryptN.toNat s.scryptR.toNat s.scryptP.toNat := rfl

theorem validateInstr_blockmix (s : State) :
    validateInstr s .blockmix =
      if s.scryptR.toNat = 0 then some .zeroParam
      else if s.cfg.xbufBytes < 128 * s.scryptR.toNat then some .capacity
      else none := rfl

/-- BLOCKMIX validates iff neither of its checks applies. -/
theorem validateInstr_blockmix_eq_none {s : State} :
    validateInstr s .blockmix = none ↔ s.scryptR.toNat ≠ 0 ∧ 128 * s.scryptR.toNat ≤ s.cfg.xbufBytes := by
  rw [validateInstr_blockmix]
  split_ifs <;> simp <;> omega

/-- Settles O25: the verdicts of ROMIX in their order, and those of BLOCKMIX. -/
theorem scryptRejectionCodes : Obligations.ScryptRejectionCodes := by
  rintro s N r p rfl rfl rfl
  rw [validate_encode, validate_encode, validateInstr_romix, validateInstr_blockmix]
  refine ⟨fun hrp => ?_, fun hrp hN => ?_, fun hrp hN => ?_, ?_⟩
  · rw [romixVerdict_of_tooLarge hrp]
    rfl
  · rw [romixVerdict_of_invalidCost hrp hN]
    rfl
  · rw [romixVerdict_of_cost hrp hN]
    split_ifs <;> rfl
  · split_ifs <;> rfl

end Sys2Proof.Machine
end

section
/-! PROOF. The lane forms of 64-bit arithmetic are the 64-bit operations (40_word_arith.md R126, R128, R129), and the model's left
rotation is Lean's (R122). -/

namespace Sys2Proof.Machine

/-- Settles O5: the carry is the quotient by 2^32 of the sum of the low lanes. -/
theorem laneAddIsWideAdd : Obligations.LaneAddIsWideAdd := by
  intro ah al bh bl
  have hal := al.isLt
  have hbl := bl.isLt
  refine BitVec.eq_of_toNat_eq ?_
  rw [BitVec.toNat_add, ofLanes_toNat, ofLanes_toNat, ofLanes_toNat]
  simp only [laneAdd, BitVec.toNat_ofNat]
  split_ifs <;> omega

/-- A bit of a lane pair is a bit of one lane. -/
theorem getLsbD_ofLanes (hi lo : Word) (i : Nat) :
    (ofLanes hi lo).getLsbD i = if i < 32 then lo.getLsbD i else hi.getLsbD (i - 32) :=
  BitVec.getLsbD_append

/-- Settles O6: bit by bit, with the two lanes on either side of the amount 32. -/
theorem laneRotateAndShiftAreWide : Obligations.LaneRotateAndShiftAreWide := by
  intro hi lo n h0 h64
  constructor
  · refine BitVec.eq_of_getLsbD_eq fun i hi64 => ?_
    rw [BitVec.getLsbD_rotateRight, Nat.mod_eq_of_lt h64]
    unfold laneRotr
    split_ifs
    all_goals simp only [getLsbD_ofLanes, BitVec.getLsbD_or, BitVec.getLsbD_ushiftRight, BitVec.getLsbD_shiftLeft]
    all_goals grind
  · refine BitVec.eq_of_getLsbD_eq fun i hi64 => ?_
    rw [BitVec.getLsbD_ushiftRight]
    unfold laneShr
    split_ifs
    all_goals simp only [getLsbD_ofLanes, BitVec.getLsbD_or, BitVec.getLsbD_ushiftRight, BitVec.getLsbD_shiftLeft]
    all_goals grind

/-- The left rotation of R122 is Lean's. -/
theorem rotl_eq_rotateLeft {w n : Nat} (a : BitVec w) (h0 : 0 < n) (h : n < w) : rotl a n = a.rotateLeft n := by
  rw [rotl, Nat.mod_eq_of_lt (by omega), BitVec.rotateLeft, Nat.mod_eq_of_lt h, rotr, BitVec.rotateLeftAux, BitVec.or_comm,
    Nat.sub_sub_self h.le]

end Sys2Proof.Machine
end

section
/-! PROOF. Byte memory: the canonical form is unique (10_state.md R54), and the words of the buffers as the host and as the engines see
them (20_memory.md R61 to R63). -/

namespace Sys2Proof.Machine

/-! ## The canonical form -/

/-- A canonical memory lists exactly its nonzero bytes. -/
theorem Memory.mem_iff_of_wf {m : Memory} (hwf : m.wf = true) {c : Host.Cell} : c ∈ m ↔ m.read c.1 = c.2 ∧ c.2 ≠ 0 := by
  obtain ⟨hsorted, hnonzero⟩ := (Memory.wf_iff m).1 hwf
  refine ⟨fun hc => ⟨?_, hnonzero c hc⟩, fun h => ?_⟩
  · clear hwf hnonzero
    induction m with
    | nil => cases hc
    | cons d m ih =>
      obtain ⟨hd, hsorted⟩ := List.pairwise_cons.1 hsorted
      rcases List.mem_cons.1 hc with rfl | hc
      · simp [Memory.read]
      · rw [Memory.read, if_neg (hd c hc).ne]
        exact ih hsorted hc
  · obtain ⟨hread, hne⟩ := h
    clear hwf hsorted hnonzero
    induction m with
    | nil => exact absurd hread.symm hne
    | cons d m ih =>
      rw [Memory.read] at hread
      split_ifs at hread with hd
      · exact List.mem_cons.2 (.inl (Prod.ext hd.symm hread.symm))
      · exact List.mem_cons_of_mem _ (ih hread)

/-- Settles O7: canonical memories that read alike have the same cells, and both list them in the order of their addresses. -/
theorem canonicalMemoryIsUnique : Obligations.CanonicalMemoryIsUnique := by
  intro m n hm hn hread
  have hmsorted := ((Memory.wf_iff m).1 hm).1
  have hnsorted := ((Memory.wf_iff n).1 hn).1
  have hmem : ∀ c, c ∈ m ↔ c ∈ n := fun c => by
    rw [Memory.mem_iff_of_wf hm, Memory.mem_iff_of_wf hn, hread]
  have hnodup : ∀ {l : Memory}, l.Pairwise (fun c d => c.1 < d.1) → l.Nodup := fun h =>
    h.imp fun hlt heq => hlt.ne (congrArg Prod.fst heq)
  refine ((List.perm_ext_iff_of_nodup (hnodup hmsorted) (hnodup hnsorted)).2 hmem).eq_of_pairwise ?_ hmsorted hnsorted
  intro c d _ _ hcd hdc
  exact absurd hcd hdc.asymm

/-! ## Words -/

/-- Byte `i` of a range that is read. -/
theorem byteAt_readBytes (m : Memory) (base : Nat) {n i : Nat} (h : i < n) : byteAt (m.readBytes base n) i = m.read (base + i) := by
  rw [byteAt, Memory.getD_readBytes, if_pos h]

/-- The bytes of a host word (R61). -/
theorem Memory.readWord_eq (m : Memory) (off : Nat) :
    m.readWord off = m.read (off + 3) ++ m.read (off + 2) ++ m.read (off + 1) ++ m.read off := by
  simp only [Memory.readWord, le32, byteAt_readBytes, Nat.reduceLT, Nat.reduceAdd, Nat.add_zero]

/-- A little-endian word of a range is the host word there (R63 c, d). -/
theorem le32_readBytes (m : Memory) (base : Nat) {n i : Nat} (h : i + 4 ≤ n) :
    le32 (m.readBytes base n) i = m.readWord (base + i) := by
  rw [Memory.readWord_eq, le32, byteAt_readBytes m base (by omega), byteAt_readBytes m base (by omega),
    byteAt_readBytes m base (by omega), byteAt_readBytes m base (by omega)]
  rfl

/-- The two byte orders of one string (R131). -/
theorem bswap32_le32 (B : List Byte) (i : Nat) : bswap32 (le32 B i) = be32 B i := by
  refine BitVec.eq_of_getLsbD_eq fun k hk => ?_
  simp only [bswap32, le32, be32, BitVec.getLsbD_append, BitVec.getLsbD_extractLsb']
  grind

/-- A big-endian word of a range is the host word there with its bytes swapped (R63 a, b). -/
theorem be32_readBytes (m : Memory) (base : Nat) {n i : Nat} (h : i + 4 ≤ n) :
    be32 (m.readBytes base n) i = bswap32 (m.readWord (base + i)) := by
  rw [← bswap32_le32, le32_readBytes m base h]

/-- Settles O8: each word of an engine lies within its buffer, so it is one or two host words there. -/
theorem engineWordsFromHostWords : Obligations.EngineWordsFromHostWords := by
  intro s t
  refine ⟨fun ht => be32_readBytes _ _ (by omega), fun ht => ?_, fun ht => ?_, fun c ht => ?_⟩
  · rw [be64, State.m512, be32_readBytes _ _ (by omega), be32_readBytes _ _ (by omega), ofLanes, m512Base,
      show 0x280 + (8 * t + 4) = 0x284 + 8 * t by omega]
  · rw [le64, State.b2m, le32_readBytes _ _ (by omega), le32_readBytes _ _ (by omega), ofLanes, b2mBase,
      show 0x380 + (8 * t + 4) = 0x384 + 8 * t by omega]
  · rw [State.xbuf, le32_readBytes _ _ (by omega), xbufBase, show 0x10000 + 64 * c + 4 * t = 0x10000 + 4 * (16 * c + t) by omega]

end Sys2Proof.Machine
end

section
/-! PROOF. The locations of the host window as storage: where each stands, and what a read of one sees after a write of another
(10_state.md R23, R24; 45_control.md R281, R283). -/

namespace Sys2Proof.Machine

/-! ## The location at an offset -/

/-- The block has the location: of the words of the buffers only those that are aligned and inside its buffers. -/
def Loc.mapped (c : Config) : Loc → Prop
  | .buffer off => off < windowBytes ∧ off % 4 = 0 ∧ inBuffer c off = true
  | _ => True

theorem locate_of_inBuffer {c : Config} {off : Nat} (h : inBuffer c off = true) :
    locate c off = some (.buffer off) := by
  have hrange := inBuffer_iff.1 h
  unfold locate
  iterate 14 rw [if_neg (by omega)]
  exact if_pos h

/-- A word access at a location's offset reaches the location. -/
theorem decodeAccess_offset {c : Config} {l : Loc} (h : l.mapped c) : decodeAccess c l.offset 4 = some l := by
  cases l with
  | buffer off =>
    obtain ⟨hwindow, h4, hbuffer⟩ := h
    rw [decodeAccess, if_neg (by simp only [Loc.offset]; omega)]
    exact locate_of_inBuffer hbuffer
  | h256 k | h512Hi k | h512Lo k | b2hLo k | b2hHi k | b2t k => fin_cases k <;> rfl
  | _ => rfl

theorem offset_aligned_of_decodeAccess {c : Config} {off size : Nat} {l : Loc} (h : decodeAccess c off size = some l) :
    l.offset % 4 = 0 := by
  obtain ⟨-, ⟨h4, -⟩ | ⟨h4, -⟩, rfl⟩ := decodeAccess_eq_some h
  · exact h4
  · exact h4

/-! ## Reads -/

/-- A read of a location at its offset (R281). -/
theorem hostRead_offset {l : Loc} (s : State) (h : l.mapped s.cfg) : hostRead s l.offset 4 = .value (readLoc s l) :=
  hostRead_of_some (decodeAccess_offset h)

/-- A read of a data location of an idle block at its offset (R281). -/
theorem hostRead_data {s : State} {l : Loc} (hidle : s.busy = false) (hdata : l.isData = true) (h : l.mapped s.cfg) :
    hostRead s l.offset 4 = .value (s.dataRead l) := by
  rw [hostRead_offset s h, readLoc_of_isData hdata, hidle, if_neg (by decide)]

/-- Two states with the same parameters answer a read alike when they hold the same at the location it reaches. -/
theorem hostRead_congr {s t : State} {off size : Nat} (hcfg : t.cfg = s.cfg)
    (h : ∀ l, decodeAccess s.cfg off size = some l → readLoc t l = readLoc s l) : hostRead t off size = hostRead s off size := by
  cases hl : decodeAccess s.cfg off size with
  | none => rw [hostRead_of_none hl, hostRead_of_none (hcfg ▸ hl)]
  | some l => rw [hostRead_of_some hl, hostRead_of_some (hcfg ▸ hl), h l hl]

/-- A read depends on neither the schedule nor the replies. -/
theorem hostRead_reply (s : State) (r : Reply) (off size : Nat) : hostRead (s.reply r) off size = hostRead s off size :=
  hostRead_congr rfl fun l _ => by cases l <;> rfl

/-- Settles O10: a read adds a reply, on which no later read depends. -/
theorem readsHaveNoSideEffects : Obligations.ReadsHaveNoSideEffects :=
  fun s off size off' size' => ⟨rfl, hostRead_reply s (hostRead s off' size') off size⟩

/-- The five flags below ERRCODE in STATUS, as a number (R32). -/
theorem flags_toNat (busy done err busywr b2fin : Bool) :
    (flagAt busy 0 ||| flagAt done 1 ||| flagAt err 2 ||| flagAt busywr 3 ||| flagAt b2fin 4).toNat =
      busy.toNat + 2 * done.toNat + 4 * err.toNat + 8 * busywr.toNat + 16 * b2fin.toNat := by
  revert busy done err busywr b2fin
  decide

/-- STATUS as a number: the flags, and ERRCODE in the byte above them (R32). -/
theorem statusWord_toNat (s : State) : s.statusWord.toNat = s.busy.toNat + 2 * s.done.toNat + 4 * s.err.toNat +
    8 * s.busywr.toNat + 16 * s.b2fin.toNat + 256 * s.errcode.toNat := by
  have hcode := s.errcode.isLt
  have hshift : (s.errcode.setWidth 32 <<< 8 : Word).toNat = s.errcode.toNat <<< 8 := by
    simp only [BitVec.toNat_shiftLeft, BitVec.toNat_setWidth, Nat.shiftLeft_eq]
    omega
  have hflags := flags_toNat s.busy s.done s.err s.busywr s.b2fin
  have hlow : s.busy.toNat + 2 * s.done.toNat + 4 * s.err.toNat + 8 * s.busywr.toNat + 16 * s.b2fin.toNat < 2 ^ 8 := by
    have h0 := s.busy.toNat_le
    have h1 := s.done.toNat_le
    have h2 := s.err.toNat_le
    have h3 := s.busywr.toNat_le
    have h4 := s.b2fin.toNat_le
    omega
  rw [State.statusWord, BitVec.toNat_or, hflags, hshift, Nat.or_comm, ← Nat.shiftLeft_add_eq_or_of_lt hlow, Nat.shiftLeft_eq]
  omega

/-- CTRL as a number (R31). -/
theorem ctrlWord_toNat (s : State) : s.ctrlWord.toNat = s.ie.toNat := by
  rw [State.ctrlWord]
  cases s.ie <;> rfl

/-- Settles O11: each register at its offset; CTRL and STATUS as numbers. -/
theorem controlRegisterReads : Obligations.ControlRegisterReads := by
  intro s
  have read (l : Loc) (h : l.mapped s.cfg := by trivial) : hostRead s l.offset 4 = .value (readLoc s l) := hostRead_offset s h
  refine ⟨read .id, ?_, ?_, read .cmd, read .scryptN, read .scryptR, read .scryptP, read .errcmd, read .capXbuf, read .capScratch⟩
  · rw [← ctrlWord_toNat, BitVec.ofNat_toNat, BitVec.setWidth_eq]
    exact read .ctrl
  · rw [← statusWord_toNat, BitVec.ofNat_toNat, BitVec.setWidth_eq]
    exact read .status

theorem hiLane_eq_ofNat (w : DWord) : hiLane w = BitVec.ofNat 32 (w.toNat / 2 ^ 32) := by
  rw [← hiLane_toNat, BitVec.ofNat_toNat, BitVec.setWidth_eq]

theorem loLane_eq_ofNat (w : DWord) : loLane w = BitVec.ofNat 32 (w.toNat % 2 ^ 32) := by
  rw [← loLane_toNat, BitVec.ofNat_toNat, BitVec.setWidth_eq]

theorem counterWord_eq_ofNat (t : BitVec 128) (q : Nat) : counterWord t q = BitVec.ofNat 32 (t.toNat / 2 ^ (32 * q)) := by
  refine BitVec.eq_of_toNat_eq ?_
  rw [counterWord, BitVec.extractLsb'_toNat, Nat.shiftRight_eq_div_pow, BitVec.toNat_ofNat]

/-- A host word as a number: its four bytes, little-endian (R61). -/
theorem Memory.readWord_eq_ofNat (m : Memory) (off : Nat) :
    m.readWord off = BitVec.ofNat 32 ((m.read off).toNat + (m.read (off + 1)).toNat * 2 ^ 8 +
      (m.read (off + 2)).toNat * 2 ^ 16 + (m.read (off + 3)).toNat * 2 ^ 24) := by
  have hword : (m.readWord off).toNat = (m.read off).toNat + (m.read (off + 1)).toNat * 2 ^ 8 +
      (m.read (off + 2)).toNat * 2 ^ 16 + (m.read (off + 3)).toNat * 2 ^ 24 := by
    rw [Memory.readWord, le32_toNat, byteAt_readBytes m off (by decide), byteAt_readBytes m off (by decide),
      byteAt_readBytes m off (by decide), byteAt_readBytes m off (by decide)]
    rfl
  rw [← hword, BitVec.ofNat_toNat, BitVec.setWidth_eq]

/-- Settles O12: each data location at its offset, its lane, counter word or four bytes as a number. -/
theorem dataReadsWhileIdle : Obligations.DataReadsWhileIdle := by
  intro s hidle
  have read (l : Loc) (hdata : l.isData = true := by rfl) (h : l.mapped s.cfg := by trivial) :
      hostRead s l.offset 4 = .value (s.dataRead l) := hostRead_data hidle hdata h
  simp only [← hiLane_eq_ofNat, ← loLane_eq_ofNat, ← counterWord_eq_ofNat, ← Memory.readWord_eq_ofNat]
  exact ⟨fun k => read (.h256 k), fun k => read (.h512Hi k), fun k => read (.h512Lo k), fun k => read (.b2hLo k),
    fun k => read (.b2hHi k), fun q => read (.b2t q), fun off hwindow h4 hbuffer => read (.buffer off) rfl ⟨hwindow, h4, hbuffer⟩⟩

/-- Settles O20: the control registers one by one; every data location holds 0. -/
theorem resetStateReads : Obligations.ResetStateReads := by
  refine ⟨rfl, fun off hoff => ?_, rfl, rfl, rfl⟩
  obtain ⟨l, hl, hdata, -⟩ := decodeAccess_of_dataOffset hoff
  have hzero : State.reset.dataRead l = 0 := by
    cases l with
    | h256 k | h512Hi k | h512Lo k | b2hLo k | b2hHi k | b2t k => fin_cases k <;> rfl
    | buffer off =>
      rw [State.dataRead, Memory.readWord_eq]
      exact (by decide : (0#8 ++ 0#8 ++ 0#8 ++ 0#8 : Word) = 0)
    | _ => rfl
  rw [hostRead_of_some hl, readLoc_of_isData hdata, hzero, ite_self]

/-! ## A read after a write -/

theorem setHiLane_hiLane (w : DWord) (v : Word) : hiLane (setHiLane w v) = v := hiLane_ofLanes _ _

theorem setHiLane_loLane (w : DWord) (v : Word) : loLane (setHiLane w v) = loLane w := loLane_ofLanes _ _

theorem setLoLane_hiLane (w : DWord) (v : Word) : hiLane (setLoLane w v) = hiLane w := hiLane_ofLanes _ _

theorem setLoLane_loLane (w : DWord) (v : Word) : loLane (setLoLane w v) = v := loLane_ofLanes _ _

/-- A counter word after one was replaced (R283). -/
theorem counterWord_setCounterWord (t : BitVec 128) (v : Word) {q : Nat} (q' : Nat) (hq : q < 4) :
    counterWord (setCounterWord t q v) q' = if q = q' then v else counterWord t q' := by
  refine BitVec.eq_of_getLsbD_eq fun i hi => ?_
  simp only [counterWord, setCounterWord, BitVec.getLsbD_extractLsb', BitVec.getLsbD_or, BitVec.getLsbD_and, BitVec.getLsbD_not,
    BitVec.getLsbD_shiftLeft, BitVec.getLsbD_setWidth, BitVec.getLsbD_allOnes]
  split_ifs <;> grind

theorem Memory.readWord_writeWord_same (m : Memory) (off : Nat) (v : Word) : (m.writeWord off v).readWord off = v := by
  have hbytes : (m.writeWord off v).readBytes off 4 = le32bytes v := Memory.readBytes_writeBytes_same m off (le32bytes v)
  rw [Memory.readWord, hbytes, le32_le32bytes]

theorem Memory.readWord_writeWord_disjoint (m : Memory) (v : Word) {off off' : Nat} (h : off' + 4 ≤ off ∨ off + 4 ≤ off') :
    (m.writeWord off v).readWord off' = m.readWord off' := by
  rw [Memory.readWord, Memory.writeWord, Memory.readBytes_writeBytes_disjoint _ _ _ _ _ h, Memory.readWord]

/-- A data write changes the chaining values, the counter and the buffers only (R283). -/
theorem dataWrite_eq (s : State) (v : Word) (l : Loc) :
    s.dataWrite v l = { s with
      h256 := (s.dataWrite v l).h256, h512 := (s.dataWrite v l).h512, b2h := (s.dataWrite v l).b2h,
      b2t := (s.dataWrite v l).b2t, mem := (s.dataWrite v l).mem } := by
  cases l <;> rfl

/-- A data location reads back what was written (R24). -/
theorem dataRead_dataWrite_same (s : State) (v : Word) {l : Loc} (h : l.isData = true) : (s.dataWrite v l).dataRead l = v := by
  cases l with
  | h256 k => exact Vector.getElem_set_self k.isLt
  | h512Hi k | b2hHi k =>
    simp only [State.dataWrite, State.dataRead, Fin.getElem_fin, Vector.getElem_set_self, setHiLane_hiLane]
  | h512Lo k | b2hLo k =>
    simp only [State.dataWrite, State.dataRead, Fin.getElem_fin, Vector.getElem_set_self, setLoLane_loLane]
  | b2t q =>
    simp only [State.dataWrite, State.dataRead, counterWord_setCounterWord _ _ _ q.isLt, if_true]
  | buffer off => exact Memory.readWord_writeWord_same _ _ _
  | _ => cases h

theorem hiLane_set_setLoLane (H : Vector DWord 8) (v : Word) (k k' : Fin 8) :
    hiLane (H.set k (setLoLane H[k] v))[k'] = hiLane H[k'] := by
  simp only [Fin.getElem_fin, Vector.getElem_set]
  split_ifs with hk
  · rw [setLoLane_hiLane, getElem_congr_idx hk]
  · rfl

theorem loLane_set_setHiLane (H : Vector DWord 8) (v : Word) (k k' : Fin 8) :
    loLane (H.set k (setHiLane H[k] v))[k'] = loLane H[k'] := by
  simp only [Fin.getElem_fin, Vector.getElem_set]
  split_ifs with hk
  · rw [setHiLane_loLane, getElem_congr_idx hk]
  · rfl

theorem Vector.getElem_fin_set_of_ne {α : Type} {n : Nat} (H : Vector α n) (x : α) {k k' : Fin n} (h : (k : Nat) ≠ k') :
    (H.set k x)[k'] = H[k'] :=
  Vector.getElem_set_ne k.isLt k'.isLt h

/-- A data write leaves every other location as it was (R24). -/
theorem dataRead_dataWrite_of_ne (s : State) (v : Word) {l l' : Loc} (hne : l.offset ≠ l'.offset) (h4 : l.offset % 4 = 0)
    (h4' : l'.offset % 4 = 0) : (s.dataWrite v l).dataRead l' = s.dataRead l' := by
  cases l with
  | h256 k =>
    cases l' with
    | h256 k' => exact Vector.getElem_fin_set_of_ne _ _ fun h => hne (by simp only [Loc.offset, h])
    | _ => rfl
  | h512Hi k =>
    cases l' with
    | h512Hi k' => exact congrArg hiLane (Vector.getElem_fin_set_of_ne _ _ fun h => hne (by simp only [Loc.offset, h]))
    | h512Lo k' => exact loLane_set_setHiLane s.h512 v k k'
    | _ => rfl
  | h512Lo k =>
    cases l' with
    | h512Hi k' => exact hiLane_set_setLoLane s.h512 v k k'
    | h512Lo k' => exact congrArg loLane (Vector.getElem_fin_set_of_ne _ _ fun h => hne (by simp only [Loc.offset, h]))
    | _ => rfl
  | b2hLo k =>
    cases l' with
    | b2hLo k' => exact congrArg loLane (Vector.getElem_fin_set_of_ne _ _ fun h => hne (by simp only [Loc.offset, h]))
    | b2hHi k' => exact hiLane_set_setLoLane s.b2h v k k'
    | _ => rfl
  | b2hHi k =>
    cases l' with
    | b2hLo k' => exact loLane_set_setHiLane s.b2h v k k'
    | b2hHi k' => exact congrArg hiLane (Vector.getElem_fin_set_of_ne _ _ fun h => hne (by simp only [Loc.offset, h]))
    | _ => rfl
  | b2t q =>
    cases l' with
    | b2t q' =>
      have hq : (q : Nat) ≠ q' := fun h => hne (by simp only [Loc.offset, h])
      exact (counterWord_setCounterWord _ v _ q.isLt).trans (if_neg hq)
    | _ => rfl
  | buffer off =>
    cases l' with
    | buffer off' =>
      simp only [Loc.offset] at hne h4 h4'
      exact Memory.readWord_writeWord_disjoint _ _ (by omega)
    | _ => rfl
  | _ => rfl

/-- A data write is seen in no control register. -/
theorem readLoc_dataWrite_of_control (s : State) (v : Word) (l : Loc) {l' : Loc} (h : l'.isData = false) :
    readLoc (s.dataWrite v l) l' = readLoc s l' := by
  rw [dataWrite_eq]
  cases l' with
  | h256 | h512Hi | h512Lo | b2hLo | b2hHi | b2t | buffer => cases h
  | _ => rfl

@[simp] theorem dataWrite_busy (s : State) (v : Word) (l : Loc) : (s.dataWrite v l).busy = s.busy := by
  rw [dataWrite_eq]

@[simp] theorem dataWrite_cfg (s : State) (v : Word) (l : Loc) : (s.dataWrite v l).cfg = s.cfg := by
  rw [dataWrite_eq]

/-- A data write of an idle block: the location reads back the value, and every other offset reads as before. -/
theorem hostRead_dataWrite {s : State} {off : Nat} {l : Loc} (v : Word) (hidle : s.busy = false)
    (hl : decodeAccess s.cfg off 4 = some l) (hdata : l.isData = true) :
    hostRead (s.dataWrite v l) off 4 = .value v ∧
    ∀ off', off' ≠ off → hostRead (s.dataWrite v l) off' 4 = hostRead s off' 4 := by
  have hoff : l.offset = off := (decodeAccess_eq_some hl).2.2
  constructor
  · rw [hostRead_of_some (by rwa [dataWrite_cfg]), readLoc_of_isData hdata, dataWrite_busy, hidle, if_neg (by decide),
      dataRead_dataWrite_same s v hdata]
  · refine fun off' hne => hostRead_congr (dataWrite_cfg s v l) fun l' hl' => ?_
    have hoff' : l'.offset = off' := (decodeAccess_eq_some hl').2.2
    cases hdata' : l'.isData with
    | false => exact readLoc_dataWrite_of_control s v l hdata'
    | true =>
      rw [readLoc_of_isData hdata', readLoc_of_isData hdata', dataWrite_busy, hidle, if_neg (by decide), if_neg (by decide)]
      exact dataRead_dataWrite_of_ne s v (by omega) (offset_aligned_of_decodeAccess hl) (offset_aligned_of_decodeAccess hl')

/-- A write of a SCRYPT register of an idle block stores the value and is seen in no other location. -/
theorem writeLoc_scrypt {s : State} {l : Loc} (v : Word) (hidle : s.busy = false) (hl : l ∈ [.scryptN, .scryptR, .scryptP]) :
    (writeLoc s v l).cfg = s.cfg ∧ readLoc (writeLoc s v l) l = v ∧
    ∀ l', l' ≠ l → readLoc (writeLoc s v l) l' = readLoc s l' := by
  have hbusy : ¬ s.busy = true := by rw [hidle]; decide
  have hwrite : writeLoc s v l = writeIdle s v l := by
    fin_cases hl <;> exact if_neg hbusy
  rw [hwrite]
  fin_cases hl
  · refine ⟨rfl, rfl, fun l' hne => ?_⟩
    cases l' with
    | scryptN => exact absurd rfl hne
    | _ => rfl
  · refine ⟨rfl, rfl, fun l' hne => ?_⟩
    cases l' with
    | scryptR => exact absurd rfl hne
    | _ => rfl
  · refine ⟨rfl, rfl, fun l' hne => ?_⟩
    cases l' with
    | scryptP => exact absurd rfl hne
    | _ => rfl

/-- A SCRYPT register of an idle block: it reads back the value, and every other offset reads as before. -/
theorem hostRead_hostWrite_scrypt {s : State} {off : Nat} {l : Loc} (v : Word) (hidle : s.busy = false)
    (hl : decodeAccess s.cfg off 4 = some l) (hscrypt : l ∈ [.scryptN, .scryptR, .scryptP]) :
    hostRead (hostWrite s off 4 v).1 off 4 = .value v ∧
    ∀ off', off' ≠ off → hostRead (hostWrite s off 4 v).1 off' 4 = hostRead s off' 4 := by
  obtain ⟨hcfg, hsame, hother⟩ := writeLoc_scrypt v hidle hscrypt
  rw [hostWrite_of_some v hl]
  refine ⟨by rw [hostRead_of_some (hcfg ▸ hl), hsame], fun off' hne => hostRead_congr hcfg fun l' hl' => hother l' ?_⟩
  rintro rfl
  exact hne ((decodeAccess_eq_some hl').2.2.symm.trans (decodeAccess_eq_some hl).2.2)

/-- Settles O13: a data location or a SCRYPT register, each by what a read sees after a write of it. -/
theorem writableLocationsAreSeparateStorage : Obligations.WritableLocationsAreSeparateStorage := by
  intro s off off' v hidle hoff
  suffices h : hostRead (hostWrite s off 4 v).1 off 4 = .value v ∧
      ∀ off', off' ≠ off → hostRead (hostWrite s off 4 v).1 off' 4 = hostRead s off' 4 from ⟨h.1, h.2 off'⟩
  rcases hoff with hoff | rfl | rfl | rfl
  · obtain ⟨l, hl, hdata, -⟩ := decodeAccess_of_dataOffset hoff
    rw [hostWrite_of_some v hl, writeLoc_of_isData hdata, hidle, if_neg (by decide)]
    exact hostRead_dataWrite v hidle hl hdata
  · exact hostRead_hostWrite_scrypt (l := .scryptN) v hidle rfl (by decide)
  · exact hostRead_hostWrite_scrypt (l := .scryptR) v hidle rfl (by decide)
  · exact hostRead_hostWrite_scrypt (l := .scryptP) v hidle rfl (by decide)

/-! ## Writes while a command is pending, and CTRL (R286, R289) -/

theorem ctrlWrite_of_reset {s : State} {v : Word} (h : v.getLsbD 1 = true) : s.ctrlWrite v = s.resetBlock := if_pos h

theorem ctrlWrite_of_not_reset {s : State} {v : Word} (h : v.getLsbD 1 = false) : s.ctrlWrite v = { s with ie := v.getLsbD 0 } := by
  rw [State.ctrlWrite, h, if_neg (by decide)]

/-- Settles O15: the locations that are dropped, the read-only ones, and STATUS and CTRL, which do not look at BUSY. -/
theorem busyWritesAreDropped : Obligations.BusyWritesAreDropped := by
  intro s off v hbusy
  refine ⟨fun hoff => ?_, fun hoff => ?_, ?_, fun hv => ?_, fun hv => ?_⟩
  · rcases hoff with hoff | rfl | rfl | rfl | rfl
    · obtain ⟨l, hl, hdata, -⟩ := decodeAccess_of_dataOffset hoff
      rw [hostWrite_of_some v hl, writeLoc_of_isData hdata, if_pos hbusy]
    · exact (hostWrite_of_some (l := .cmd) v rfl).trans (congrArg (·, Reply.written) (if_pos hbusy))
    · exact (hostWrite_of_some (l := .scryptN) v rfl).trans (congrArg (·, Reply.written) (if_pos hbusy))
    · exact (hostWrite_of_some (l := .scryptR) v rfl).trans (congrArg (·, Reply.written) (if_pos hbusy))
    · exact (hostWrite_of_some (l := .scryptP) v rfl).trans (congrArg (·, Reply.written) (if_pos hbusy))
  · exact readOnlyWritesAreIgnored.1 s off v hoff
  · rw [hostWrite_status, hostWrite_status, statusWrite_eq, statusWrite_eq, ← hbusy]
  · rw [hostWrite_ctrl, hostWrite_ctrl, ctrlWrite_of_not_reset hv, ctrlWrite_of_not_reset hv, ← hbusy]
  · rw [hostWrite_ctrl, hostWrite_ctrl, ctrlWrite_of_reset hv, ctrlWrite_of_reset hv]
    rfl

/-- Settles O18: the two branches of the CTRL write. -/
theorem ctrlWriteSetsIeOrResets : Obligations.CtrlWriteSetsIeOrResets := by
  intro s v
  rw [hostWrite_ctrl]
  refine ⟨fun hv => ?_, fun hv => ⟨[], ?_⟩⟩
  · rw [ctrlWrite_of_not_reset hv]
  · rw [ctrlWrite_of_reset hv]
    rfl

end Sys2Proof.Machine
end

section
/-! PROOF. What the effect of a command can change (30_encoding.md R92; 45_control.md R293), and the completed commands
(60_exceptions.md R345). -/

namespace Sys2Proof.Machine

/-! ## ROMix over the buffer memory and the scratch table -/

/-- The buffer memory and the scratch table after ROMix on the first `p` blocks (R250). -/
def romixOn (N r : Nat) : Nat → Memory × Memory → Memory × Memory
  | 0, mv => mv
  | p + 1, mv =>
    let mv := romixOn N r p mv
    let out := romix N r (mv.1.readBytes (xbufBase + 128 * r * p) (128 * r)) mv.2
    (mv.1.writeBytes (xbufBase + 128 * r * p) out.1, out.2)

/-- ROMIX works on the buffer memory and the scratch table only. -/
theorem romixBlocks_eq (N r p : Nat) (s : State) :
    romixBlocks N r p s =
      { s with mem := (romixOn N r p (s.mem, s.scratch)).1, scratch := (romixOn N r p (s.mem, s.scratch)).2 } := by
  induction p with
  | zero => rfl
  | succ p ih =>
    have hsucc : romixBlocks N r (p + 1) s = romixBlock N r p (romixBlocks N r p s) := by
      rw [romixBlocks, List.range_succ, List.foldl_append]
      rfl
    rw [hsucc, ih]
    rfl

section
variable (N r p : Nat) (m v : Memory)

theorem length_romix_readBytes (a : Nat) : (romix N r (m.readBytes a (128 * r)) v).1.length = 128 * r :=
  length_romix (Memory.length_readBytes m a (128 * r))

/-- ROMIX leaves every byte outside its p blocks. -/
theorem read_romixOn_of_outside {a : Nat} (h : ¬ (0x10000 ≤ a ∧ a < 0x10000 + 128 * r * p)) :
    (romixOn N r p (m, v)).1.read a = m.read a := by
  induction p with
  | zero => rfl
  | succ p ih =>
    rw [Nat.mul_succ] at h
    rw [romixOn, Memory.read_writeBytes, length_romix_readBytes, if_neg (by simp only [xbufBase]; omega)]
    exact ih (by omega)

theorem readBytes_romixOn_of_ge {k : Nat} (h : p ≤ k) :
    (romixOn N r p (m, v)).1.readBytes (xbufBase + 128 * r * k) (128 * r) =
      m.readBytes (xbufBase + 128 * r * k) (128 * r) := by
  have hk : 128 * r * p ≤ 128 * r * k := Nat.mul_le_mul_left _ h
  rw [Memory.readBytes_eq, Memory.readBytes_eq]
  exact List.map_congr_left fun i _ => read_romixOn_of_outside N r p m v (by simp only [xbufBase]; omega)

/-- ROMix gives the same block over every scratch table (R254). -/
theorem romix_fst_congr {B : List Byte} (hB : B.length = 128 * r) (v' : Memory) : (romix N r B v).1 = (romix N r B v').1 := by
  rw [romix_eq_iterate N v hB, romix_eq_iterate N v' hB]

/-- Each of the p blocks becomes its own ROMix, whatever the scratch table holds (R250, R254). -/
theorem readBytes_romixOn_of_lt {k : Nat} (V : Memory) (h : k < p) :
    (romixOn N r p (m, v)).1.readBytes (xbufBase + 128 * r * k) (128 * r) =
      (romix N r (m.readBytes (xbufBase + 128 * r * k) (128 * r)) V).1 := by
  induction p with
  | zero => simp at h
  | succ p ih =>
    rcases Nat.lt_succ_iff_lt_or_eq.1 h with hk | rfl
    · have hmul : 128 * r * k + 128 * r ≤ 128 * r * p := by
        rw [← Nat.mul_succ]
        exact Nat.mul_le_mul_left _ hk
      rw [← ih hk, romixOn]
      exact Memory.readBytes_writeBytes_disjoint _ _ _ _ _ (.inl (by omega))
    · have hsame := Memory.readBytes_writeBytes_same (romixOn N r k (m, v)).1 (xbufBase + 128 * r * k)
        (romix N r ((romixOn N r k (m, v)).1.readBytes (xbufBase + 128 * r * k) (128 * r)) (romixOn N r k (m, v)).2).1
      rw [length_romix_readBytes] at hsame
      rw [romixOn, hsame, readBytes_romixOn_of_ge N r k m v le_rfl]
      exact romix_fst_congr N r _ (Memory.length_readBytes _ _ _) V

/-- The buffer memory after ROMIX does not depend on the scratch table (R254). -/
theorem romixOn_fst_congr (v' : Memory) : (romixOn N r p (m, v)).1 = (romixOn N r p (m, v')).1 := by
  induction p with
  | zero => rfl
  | succ p ih =>
    rw [romixOn, romixOn, ih]
    exact congrArg (Memory.writeBytes _ _) (romix_fst_congr N r _ (Memory.length_readBytes _ _ _) _)

theorem wf_romixOn (hm : m.wf = true) (hv : v.wf = true) :
    (romixOn N r p (m, v)).1.wf = true ∧ (romixOn N r p (m, v)).2.wf = true := by
  induction p with
  | zero => exact ⟨hm, hv⟩
  | succ p ih => exact ⟨Memory.wf_writeBytes ih.1 _ _, wf_romixFill ih.2⟩

/-- A cell of the buffer memory after ROMIX was there before, or lies in one of the p blocks. -/
theorem mem_romixOn_fst {c : Host.Cell} (h : c ∈ (romixOn N r p (m, v)).1) :
    c ∈ m ∨ (0x10000 ≤ c.1 ∧ c.1 < 0x10000 + 128 * r * p) := by
  induction p with
  | zero => exact .inl h
  | succ p ih =>
    rw [Nat.mul_succ]
    rcases Memory.mem_writeBytes h with h | ⟨hlow, hhigh⟩
    · rcases ih h with h | h
      · exact .inl h
      · exact .inr (by omega)
    · rw [length_romix_readBytes] at hhigh
      simp only [xbufBase] at hlow hhigh
      exact .inr (by omega)

/-- A cell of the scratch table after ROMIX was there before, or lies in one of the N entries (R252). -/
theorem mem_romixOn_snd {c : Host.Cell} (h : c ∈ (romixOn N r p (m, v)).2) : c ∈ v ∨ c.1 < 128 * r * N := by
  induction p with
  | zero => exact .inl h
  | succ p ih =>
    rcases mem_romixFill (Memory.length_readBytes _ _ _) h with h | h
    · exact ih h
    · rw [Nat.zero_add] at h
      exact .inr h

end

/-! ## The fields an effect leaves alone -/

theorem effectOf_romix (s : State) :
    effectOf .romix s = { s with
      mem := (romixOn s.costN s.blockR s.parP (s.mem, s.scratch)).1
      scratch := (romixOn s.costN s.blockR s.parP (s.mem, s.scratch)).2 } :=
  romixBlocks_eq _ _ _ _

theorem effectOf_blake2bCompress (len : BitVec 8) (f : Bool) (s : State) :
    effectOf (.blake2bCompress len f) s = { s with
      b2h := (effectOf (.blake2bCompress len f) s).b2h
      b2t := (effectOf (.blake2bCompress len f) s).b2t
      b2fin := (effectOf (.blake2bCompress len f) s).b2fin } := by
  simp only [effectOf, blake2bCompressEffect]
  split_ifs <;> rfl

/-- An effect changes the engines, the buffers and the scratch table only. -/
theorem effectOf_eq (i : Instr) (s : State) :
    effectOf i s = { s with
      h256 := (effectOf i s).h256, h512 := (effectOf i s).h512, b2h := (effectOf i s).b2h, b2t := (effectOf i s).b2t,
      b2fin := (effectOf i s).b2fin, mem := (effectOf i s).mem, scratch := (effectOf i s).scratch } := by
  cases i with
  | blake2bCompress len f => rw [effectOf_blake2bCompress]
  | romix => rw [effectOf_romix]
  | _ => rfl

section
variable (i : Instr) (s : State)

@[simp] theorem effectOf_ie : (effectOf i s).ie = s.ie := by rw [effectOf_eq]
@[simp] theorem effectOf_err : (effectOf i s).err = s.err := by rw [effectOf_eq]
@[simp] theorem effectOf_errcode : (effectOf i s).errcode = s.errcode := by rw [effectOf_eq]
@[simp] theorem effectOf_errcmd : (effectOf i s).errcmd = s.errcmd := by rw [effectOf_eq]
@[simp] theorem effectOf_busywr : (effectOf i s).busywr = s.busywr := by rw [effectOf_eq]
@[simp] theorem effectOf_scryptN : (effectOf i s).scryptN = s.scryptN := by rw [effectOf_eq]
@[simp] theorem effectOf_scryptR : (effectOf i s).scryptR = s.scryptR := by rw [effectOf_eq]
@[simp] theorem effectOf_scryptP : (effectOf i s).scryptP = s.scryptP := by rw [effectOf_eq]
@[simp] theorem effectOf_cfg : (effectOf i s).cfg = s.cfg := by rw [effectOf_eq]
@[simp] theorem effectOf_inbox : (effectOf i s).inbox = s.inbox := by rw [effectOf_eq]
@[simp] theorem effectOf_replies : (effectOf i s).replies = s.replies := by rw [effectOf_eq]

end

/-- A completion depends on neither the sequencer's fields nor the schedule and the replies, which it passes on. -/
theorem complete_effectOf_congr (i : Instr) (s : State) (busy : Bool) (pending : Option Word) (es : List Event) (rs : List Reply) :
    (effectOf i { s with busy := busy, pending := pending, inbox := es, replies := rs }).complete =
      { (effectOf i s).complete with inbox := es, replies := rs } := by
  cases i with
  | blake2bCompress len f =>
    simp only [effectOf, blake2bCompressEffect]
    split_ifs <;> rfl
  | romix =>
    rw [effectOf_romix, effectOf_romix]
    rfl
  | _ => rfl

/-! ## The fields each engine's effects leave alone (R293) -/

theorem effectOf_h256 {i : Instr} (s : State) (h : i ∉ [.sha256Init, .sha256Compress, .sha256Zero]) :
    (effectOf i s).h256 = s.h256 := by
  cases i with
  | sha256Init | sha256Compress | sha256Zero => simp at h
  | blake2bCompress len f => rw [effectOf_blake2bCompress]
  | romix => rw [effectOf_romix]
  | _ => rfl

theorem effectOf_h512 {i : Instr} (s : State) (h : i ∉ [.sha512Init, .sha512Compress, .sha512Zero]) :
    (effectOf i s).h512 = s.h512 := by
  cases i with
  | sha512Init | sha512Compress | sha512Zero => simp at h
  | blake2bCompress len f => rw [effectOf_blake2bCompress]
  | romix => rw [effectOf_romix]
  | _ => rfl

theorem effectOf_blake2b {i : Instr} (s : State) (hinit : ∀ nn kk, i ≠ .blake2bInit nn kk)
    (hcompress : ∀ len f, i ≠ .blake2bCompress len f) :
    (effectOf i s).b2h = s.b2h ∧ (effectOf i s).b2t = s.b2t ∧ (effectOf i s).b2fin = s.b2fin := by
  cases i with
  | blake2bInit nn kk => exact absurd rfl (hinit nn kk)
  | blake2bCompress len f => exact absurd rfl (hcompress len f)
  | romix =>
    rw [effectOf_romix]
    exact ⟨rfl, rfl, rfl⟩
  | _ => exact ⟨rfl, rfl, rfl⟩

theorem effectOf_mem {i : Instr} (s : State) (h : i ∉ [.salsa20_8, .blockmix, .romix]) : (effectOf i s).mem = s.mem := by
  cases i with
  | salsa20_8 | blockmix | romix => simp at h
  | blake2bCompress len f => rw [effectOf_blake2bCompress]
  | _ => rfl

theorem effectOf_scratch {i : Instr} (s : State) (h : i ≠ .romix) : (effectOf i s).scratch = s.scratch := by
  cases i with
  | romix => exact absurd rfl h
  | blake2bCompress len f => rw [effectOf_blake2bCompress]
  | _ => rfl

/-- A store in XBUF is seen in its range only. -/
theorem read_setXbuf_of_outside (s : State) {b : Nat} {bs : List Byte} (h : ¬ (0x10000 ≤ b ∧ b < 0x10000 + bs.length)) :
    (s.setXbuf 0 bs).mem.read b = s.mem.read b := by
  rw [State.setXbuf_mem, Memory.read_writeBytes, if_neg (by simpa using h)]

/-- The scrypt commands leave the buffers below XBUF. -/
theorem read_effectOf_of_lt (i : Instr) (s : State) {a : Nat} (h : a < 0x10000) : (effectOf i s).mem.read a = s.mem.read a := by
  by_cases hi : i ∈ [.salsa20_8, .blockmix, .romix]
  · fin_cases hi
    · exact read_setXbuf_of_outside s (by omega)
    · exact read_setXbuf_of_outside s (by omega)
    · rw [effectOf_romix]
      exact read_romixOn_of_outside _ _ _ _ _ (by omega)
  · rw [effectOf_mem s hi]

/-- Settles O44: a rejected command changes none of the fields, and a completed one what its effect may change. -/
theorem commandsTouchTheirOwnEngineOnly : Obligations.CommandsTouchTheirOwnEngineOnly := by
  intro i s t h
  rcases exec_cases i s with ⟨-, hnext⟩ | ⟨e, hinvalid, hnext⟩
  · obtain rfl := Host.Outcome.next.inj (hnext.symm.trans h)
    refine ⟨⟨rfl, rfl, rfl⟩, by simp, effectOf_h256 s, effectOf_h512 s, effectOf_blake2b s, effectOf_mem s,
      fun a ha => read_effectOf_of_lt i s ha, effectOf_scratch s, fun _ => by simp⟩
  · obtain rfl := Host.Outcome.next.inj (hnext.symm.trans h)
    refine ⟨⟨rfl, rfl, rfl⟩, by simp, fun _ => rfl, fun _ => rfl, fun _ _ => ⟨rfl, rfl, rfl⟩, fun _ => rfl, fun _ _ => rfl,
      fun _ => rfl, fun hvalid => ?_⟩
    rw [validate_encode, hinvalid] at hvalid
    cases hvalid

/-- The interrupt line is IE once a command has run to its end. -/
theorem irq_of_exec {i : Instr} {s t : State} (h : exec i s = .next t) : t.irq = s.ie := by
  obtain ⟨⟨-, -, hdone⟩, ⟨hie, -⟩, -⟩ := commandsTouchTheirOwnEngineOnly i s t h
  rw [State.irq, hdone, hie, Bool.and_true]

/-- Settles O21: the end of a command, a rejection, the acknowledgement and the two CTRL writes. -/
theorem irqFollowsDoneAndIe : Obligations.IrqFollowsDoneAndIe := by
  refine ⟨fun i s t h => irq_of_exec h, fun s w hidle hinvalid => ?_, fun s => ⟨?_, ?_, ?_⟩⟩
  · obtain ⟨e, he⟩ := Option.ne_none_iff_exists'.1 hinvalid
    rw [hostWrite_cmd_of_idle w hidle, issue_of_some he]
    exact Bool.and_true _
  · rw [hostWrite_status, statusWrite_eq]
    simp [State.irq]
  · rw [hostWrite_ctrl, ctrlWrite_of_not_reset rfl]
    rfl
  · rw [hostWrite_ctrl, ctrlWrite_of_not_reset rfl]
    exact Bool.true_and _

/-! ## The commands -/

/-- Settles O26: NOP always validates and has no effect. -/
theorem nopCompletes : Obligations.NopCompletes := fun _ => exec_of_valid rfl

/-- Settles O27: the four commands always validate; each effect loads its constant. -/
theorem shaInitAndZeroComplete : Obligations.ShaInitAndZeroComplete :=
  fun _ => ⟨exec_of_valid rfl, exec_of_valid rfl, exec_of_valid rfl, exec_of_valid rfl⟩

/-- The three fields of the parameter word do not overlap (R217). -/
theorem paramWord_eq (nn kk : BitVec 8) : paramWord nn kk = BitVec.ofNat 64 (0x01010000 + 2 ^ 8 * kk.toNat + nn.toNat) := by
  have happend : paramWord nn kk = 0x0101#48 ++ kk ++ nn := by
    refine BitVec.eq_of_getLsbD_eq fun i hi => ?_
    have hlow : ∀ i < 16, (0x01010000#64).getLsbD i = false := by decide
    have hhigh : ∀ i < 48, (0x01010000#64).getLsbD (i + 16) = (0x0101#48).getLsbD i := by decide
    simp only [paramWord, BitVec.getLsbD_xor, BitVec.getLsbD_shiftLeft, BitVec.getLsbD_setWidth, BitVec.getLsbD_append]
    grind
  refine BitVec.eq_of_toNat_eq ?_
  rw [happend, toNat_append_add, toNat_append_add, BitVec.toNat_ofNat, BitVec.toNat_ofNat]
  omega

/-- Settles O30: with operands in range the command validates, and its effect loads the folded initial value. -/
theorem blake2bInitResult : Obligations.Blake2bInitResult := by
  intro s nn kk hnn1 hnn64 hkk
  rw [exec_of_valid (validateInstr_blake2bInit_eq_none.2 ⟨hnn1, hnn64, hkk⟩), ← paramWord_eq]
  rfl

/-- Settles O31: with B2FIN = 0 the effect advances the counter and compresses. -/
theorem blake2bCompressResult : Obligations.Blake2bCompressResult := by
  intro s len f hlen hfin
  have hcounter : s.b2t + len.setWidth 128 = BitVec.ofNat 128 (s.b2t.toNat + len.toNat) := by
    refine BitVec.eq_of_toNat_eq ?_
    simp only [BitVec.toNat_add, BitVec.toNat_setWidth, BitVec.toNat_ofNat]
    omega
  have heffect : effectOf (.blake2bCompress len f) s = _ := if_neg (by rw [hfin]; decide)
  rw [exec_of_valid (validateInstr_blake2bCompress_eq_none.2 hlen), heffect, hcounter]
  rfl

theorem xbuf_setXbuf (s : State) (bs : List Byte) : (s.setXbuf 0 bs).xbuf 0 bs.length = bs :=
  Memory.readBytes_writeBytes_same _ _ bs

/-- Settles O36: SALSA20_8 always validates; its effect stores 64 bytes in XBUF. -/
theorem salsa20CommandResult : Obligations.Salsa20CommandResult := by
  refine fun s => ⟨_, exec_of_valid rfl, rfl, ?_, fun a ha => read_setXbuf_of_outside s ?_⟩
  · exact (congrArg _ (length_salsa20_8 _)).symm.trans (xbuf_setXbuf s _)
  · rwa [length_salsa20_8]

/-- Settles O40: BLOCKMIX with its operand in range validates; its effect stores 128·r bytes in XBUF. -/
theorem blockmixCommandResult : Obligations.BlockmixCommandResult := by
  rintro s r rfl hr hcap
  refine ⟨_, exec_of_valid (validateInstr_blockmix_eq_none.2 ⟨by omega, hcap⟩), rfl, ?_,
    fun a ha => read_setXbuf_of_outside s ?_⟩
  · exact (congrArg _ (length_blockmix _ _)).symm.trans (xbuf_setXbuf s _)
  · rwa [length_blockmix]

/-- Settles O43: ROMIX with its operands in range validates, and its effect is ROMix on each of the p blocks. -/
theorem romixCommandResult : Obligations.RomixCommandResult := by
  rintro s N r p rfl rfl rfl hrp hN hr hp hxbuf hscratch
  refine ⟨_, exec_of_valid (romixVerdict_eq_none.2 ⟨hrp, hN, hr, hp, hxbuf, hscratch⟩), ?_, ?_, ?_⟩
  · rw [effectOf_romix]
    rfl
  · intro k V hk
    rw [effectOf_romix]
    exact readBytes_romixOn_of_lt _ _ _ s.mem s.scratch V hk
  · intro a ha
    rw [effectOf_romix]
    exact read_romixOn_of_outside _ _ _ s.mem s.scratch ha

end Sys2Proof.Machine
end

section
/-! PROOF. The SHA-2 compressions satisfy the equations of their rules (41_sha256.md R155 to R158; 42_sha512.md R185 to R188). -/

namespace Sys2Proof.Machine

section
variable {w : Nat} (sum0 sum1 sig0 sig1 : BitVec w → BitVec w)

/-! ## The message schedule (R156, R186) -/

theorem getD_extend_of_lt (n : Nat) {W : List (BitVec w)} {t : Nat} (h : t < W.length) :
    (extend sig0 sig1 n W).getD t 0 = W.getD t 0 := by
  induction n generalizing W with
  | zero => rfl
  | succ n ih =>
    rw [extend, ih (by rw [List.length_append]; omega), List.getD_append _ _ _ _ h]

theorem length_extend (n : Nat) (W : List (BitVec w)) : (extend sig0 sig1 n W).length = W.length + n := by
  induction n generalizing W with
  | zero => rfl
  | succ n ih =>
    rw [extend, ih, List.length_append, List.length_singleton]
    omega

/-- The words that extend the schedule, each from four words before it. -/
theorem getD_extend (n : Nat) {W : List (BitVec w)} {t : Nat} (h16 : 16 ≤ W.length) (hW : W.length ≤ t) (ht : t < W.length + n) :
    (extend sig0 sig1 n W).getD t 0 =
      sig1 ((extend sig0 sig1 n W).getD (t - 2) 0) + (extend sig0 sig1 n W).getD (t - 7) 0 +
        sig0 ((extend sig0 sig1 n W).getD (t - 15) 0) + (extend sig0 sig1 n W).getD (t - 16) 0 := by
  induction n generalizing W with
  | zero => omega
  | succ n ih =>
    have hlength : (W ++ [scheduleNext sig0 sig1 W]).length = W.length + 1 := by simp
    rw [extend]
    rcases Nat.eq_or_lt_of_le hW with rfl | hlt
    · have hold : ∀ j, 0 < j → j ≤ 16 →
          (extend sig0 sig1 n (W ++ [scheduleNext sig0 sig1 W])).getD (W.length - j) 0 = W.getD (W.length - j) 0 := fun j h0 hj => by
        rw [getD_extend_of_lt _ _ _ (by omega), List.getD_append _ _ _ _ (by omega)]
      rw [hold 2 (by decide) (by decide), hold 7 (by decide) (by decide), hold 15 (by decide) (by decide),
        hold 16 (by decide) (by decide), getD_extend_of_lt _ _ _ (by omega), List.getD_append_right _ _ _ _ le_rfl, Nat.sub_self]
      rfl
    · exact ih (by omega) (by omega) (by omega)

/-! ## The rounds (R157, R158, R187, R188) -/

/-- The working variables after the first `t` rounds. -/
def roundsUpTo (ks ws : List (BitVec w)) (v : Working w) (t : Nat) : Working w :=
  ((ks.zip ws).take t).foldl (fun v kw => sha2Round sum0 sum1 v kw.1 kw.2) v

theorem roundsUpTo_succ {ks ws : List (BitVec w)} (v : Working w) {t : Nat} (hk : t < ks.length) (hw : t < ws.length) :
    roundsUpTo sum0 sum1 ks ws v (t + 1) =
      sha2Round sum0 sum1 (roundsUpTo sum0 sum1 ks ws v t) (ks.getD t 0) (ws.getD t 0) := by
  have hzip : t < (ks.zip ws).length := by rw [List.length_zip]; omega
  rw [roundsUpTo, List.take_succ_eq_append_getElem hzip, List.foldl_append, List.getElem_zip, List.getD_eq_getElem _ _ hk,
    List.getD_eq_getElem _ _ hw]
  rfl

theorem roundsUpTo_length {ks ws : List (BitVec w)} (v : Working w) {n : Nat} (hk : ks.length = n) (hw : ws.length = n) :
    roundsUpTo sum0 sum1 ks ws v n = sha2Rounds sum0 sum1 ks ws v := by
  rw [roundsUpTo, sha2Rounds, List.take_of_length_le (by rw [List.length_zip]; omega)]

/-- A compression satisfies its rule: the schedule is the extended list, the working variables those after each round. -/
theorem sha2Rule_of_rounds {n : Nat} {ks ms : List (BitVec w)} {M : Nat → BitVec w} (hks : ks.length = 16 + n)
    (hms : ms.length = 16) (hM : ∀ t, t < 16 → ms.getD t 0 = M t) (H : Vector (BitVec w) 8) :
    Sha2Rule sum0 sum1 sig0 sig1 (16 + n) (fun t => ks.getD t 0) M H
      ((sha2Rounds sum0 sum1 ks (extend sig0 sig1 n ms) (Working.load H)).addTo H) := by
  have hws : (extend sig0 sig1 n ms).length = 16 + n := by rw [length_extend, hms]
  refine ⟨fun t => (extend sig0 sig1 n ms).getD t 0, roundsUpTo sum0 sum1 ks (extend sig0 sig1 n ms) (Working.load H),
    fun t ht => ?_, fun t h16 ht => ?_, rfl, fun t ht => ?_, ?_⟩
  · exact (getD_extend_of_lt _ _ _ (by omega)).trans (hM t ht)
  · exact getD_extend sig0 sig1 n (by omega) (by omega) (by omega)
  · exact roundsUpTo_succ sum0 sum1 (Working.load H) (by omega) (by omega)
  · rw [roundsUpTo_length sum0 sum1 _ hks hws]
    rfl

end

/-! ## SHA-256 -/

theorem getD_words256 (M : List Byte) {t : Nat} (h : t < 16) : (words256 M).getD t 0 = be32 M (4 * t) := by
  simp [words256, h]

/-- A big-endian word of a range is its four bytes, the first most significant (20_memory.md R62). -/
theorem be32_readBytes_eq_append (m : Memory) (base : Nat) {n i : Nat} (h : i + 4 ≤ n) :
    be32 (m.readBytes base n) i =
      m.read (base + i) ++ m.read (base + 1 + i) ++ m.read (base + 2 + i) ++ m.read (base + 3 + i) := by
  rw [be32, byteAt_readBytes m base (by omega), byteAt_readBytes m base (by omega), byteAt_readBytes m base (by omega),
    byteAt_readBytes m base (by omega)]
  simp only [Nat.add_comm, Nat.add_left_comm]

/-- Settles O28: the command always validates, and its compression satisfies the rule over the words of M256. -/
theorem sha256CompressResult : Obligations.Sha256CompressResult := by
  refine fun s => ⟨sha256Compress s.h256 s.m256, exec_of_valid rfl, ?_⟩
  have hwords : ∀ t, t < 16 → (words256 s.m256).getD t 0 = s.mem.read (0x140 + 4 * t) ++ s.mem.read (0x141 + 4 * t) ++
      s.mem.read (0x142 + 4 * t) ++ s.mem.read (0x143 + 4 * t) := fun t ht =>
    (getD_words256 _ ht).trans (be32_readBytes_eq_append s.mem 0x140 (by omega))
  exact sha2Rule_of_rounds bigSigma0_256 bigSigma1_256 smallSigma0_256 smallSigma1_256 (n := 48) rfl rfl hwords s.h256

/-! ## SHA-512 -/

theorem getD_words512 (M : List Byte) {t : Nat} (h : t < 16) : (words512 M).getD t 0 = be64 M (8 * t) := by
  simp [words512, h]

/-- Two words of four bytes laid end to end are eight bytes laid end to end. -/
theorem toNat_append_eight_bytes (a b c d e f g h : Byte) :
    ((a ++ b ++ c ++ d) ++ (e ++ f ++ g ++ h)).toNat = (a ++ b ++ c ++ d ++ e ++ f ++ g ++ h).toNat := by
  simp only [toNat_append_add]
  omega

/-- A big-endian word of a range is its eight bytes, the first most significant (20_memory.md R62). -/
theorem be64_readBytes_eq_append (m : Memory) (base : Nat) {n i : Nat} (h : i + 8 ≤ n) :
    be64 (m.readBytes base n) i =
      m.read (base + i) ++ m.read (base + 1 + i) ++ m.read (base + 2 + i) ++ m.read (base + 3 + i) ++
        m.read (base + 4 + i) ++ m.read (base + 5 + i) ++ m.read (base + 6 + i) ++ m.read (base + 7 + i) := by
  rw [be64, be32_readBytes_eq_append m base (by omega), be32_readBytes_eq_append m base (by omega)]
  have hfirst : base + (i + 4) = base + 4 + i := by omega
  have hnext : ∀ k, base + k + (i + 4) = base + (k + 4) + i := fun k => by omega
  simp only [hfirst, hnext, Nat.reduceAdd]
  exact BitVec.eq_of_toNat_eq (toNat_append_eight_bytes ..)

/-- Settles O29: the command always validates, and its compression satisfies the rule over the words of M512. -/
theorem sha512CompressResult : Obligations.Sha512CompressResult := by
  refine fun s => ⟨sha512Compress s.h512 s.m512, exec_of_valid rfl, ?_⟩
  have hwords : ∀ t, t < 16 → (words512 s.m512).getD t 0 = s.mem.read (0x280 + 8 * t) ++ s.mem.read (0x281 + 8 * t) ++
      s.mem.read (0x282 + 8 * t) ++ s.mem.read (0x283 + 8 * t) ++ s.mem.read (0x284 + 8 * t) ++ s.mem.read (0x285 + 8 * t) ++
      s.mem.read (0x286 + 8 * t) ++ s.mem.read (0x287 + 8 * t) := fun t ht =>
    (getD_words512 _ ht).trans (be64_readBytes_eq_append s.mem 0x280 (by omega))
  exact sha2Rule_of_rounds bigSigma0_512 bigSigma1_512 smallSigma0_512 smallSigma1_512 (n := 64) rfl rfl hwords s.h512

end Sys2Proof.Machine
end

section
/-! PROOF. The mixing function G and the BLAKE2b compression (43_blake2b.md R214 to R216, R220). -/

namespace Sys2Proof.Machine

/-! ## Lanes of a vector -/

theorem Vector.getElem_fin_set_self {α : Type} {n : Nat} (v : Vector α n) (x : α) (k : Fin n) : (v.set k x)[k] = x :=
  Vector.getElem_set_self k.isLt

/-- A lane after a write, at indices of the vector. -/
theorem Vector.getElem_fin_set {α : Type} {n : Nat} (v : Vector α n) (x : α) (k j : Fin n) :
    (v.set k x)[j] = if k = j then x else v[j] := by
  split_ifs with h
  · rw [h, Vector.getElem_fin_set_self]
  · exact Vector.getElem_fin_set_of_ne v x fun hkj => h (Fin.ext hkj)

/-! ## G on its lanes -/

/-- Settles O33: the eight writes of G one after the other, each read back at its own lane and past the others. -/
theorem mixGOnItsLanes : Obligations.MixGOnItsLanes := by
  intro v a b c d x y hnodup
  simp only [List.nodup_cons, List.mem_cons, List.not_mem_nil, or_false, not_or, not_false_eq_true, List.nodup_nil, and_true] at hnodup
  obtain ⟨⟨hab, hac, had⟩, ⟨hbc, hbd⟩, hcd⟩ := hnodup
  refine ⟨?_, ?_, ?_, ?_, fun i hi => ?_⟩
  case refine_5 =>
    simp only [List.mem_cons, List.not_mem_nil, or_false, not_or] at hi
    obtain ⟨hia, hib, hic, hid⟩ := hi
    simp only [mixG, Vector.getElem_fin_set, Ne.symm hia, Ne.symm hib, Ne.symm hic, Ne.symm hid, if_false]
  all_goals
    simp only [mixG, Vector.getElem_fin_set, hab, hac, had, hbc, hbd, hcd, Ne.symm hab, Ne.symm hac, Ne.symm had, Ne.symm hbc,
      Ne.symm hbd, Ne.symm hcd, if_true, if_false]
    rfl

/-- G on two working vectors that agree in its four lanes: they agree after it wherever they agreed before. -/
theorem mixG_congr {v u : Vector DWord 16} {a b c d : Fin 16} (x y : DWord) (hnodup : [a, b, c, d].Nodup)
    (h : ∀ j ∈ [a, b, c, d], v[j] = u[j]) {i : Fin 16} (hi : v[i] = u[i]) : (mixG v a b c d x y)[i] = (mixG u a b c d x y)[i] := by
  obtain ⟨hva, hvb, hvc, hvd, hvother⟩ := mixGOnItsLanes v a b c d x y hnodup
  obtain ⟨hua, hub, huc, hud, huother⟩ := mixGOnItsLanes u a b c d x y hnodup
  have ha : v[a] = u[a] := h a (by simp)
  have hb : v[b] = u[b] := h b (by simp)
  have hc : v[c] = u[c] := h c (by simp)
  have hd : v[d] = u[d] := h d (by simp)
  by_cases hmem : i ∈ [a, b, c, d]
  · simp only [List.mem_cons, List.not_mem_nil, or_false] at hmem
    obtain rfl | rfl | rfl | rfl := hmem
    · rw [hva, hua, ha, hb, hc, hd]
    · rw [hvb, hub, ha, hb, hc, hd]
    · rw [hvc, huc, ha, hb, hc, hd]
    · rw [hvd, hud, ha, hb, hc, hd]
  · rw [hvother i hmem, huother i hmem, hi]

/-- Outside the lanes of a second G, it does not matter whether that one came before or after. -/
theorem mixG_comm_of_not_mem {v : Vector DWord 16} {a b c d a' b' c' d' : Fin 16} (x y x' y' : DWord)
    (hnodup : [a, b, c, d, a', b', c', d'].Nodup) {i : Fin 16} (hi : i ∉ [a', b', c', d']) :
    (mixG (mixG v a b c d x y) a' b' c' d' x' y')[i] = (mixG (mixG v a' b' c' d' x' y') a b c d x y)[i] := by
  obtain ⟨hfirst, hsecond, hdisjoint⟩ := List.nodup_append.1 (show ([a, b, c, d] ++ [a', b', c', d']).Nodup from hnodup)
  have houter (u : Vector DWord 16) : ∀ j ∉ [a', b', c', d'], (mixG u a' b' c' d' x' y')[j] = u[j] := by
    obtain ⟨-, -, -, -, hother⟩ := mixGOnItsLanes u a' b' c' d' x' y' hsecond
    exact hother
  rw [houter _ i hi]
  refine mixG_congr x y hfirst (fun j hj => (houter v j fun hj' => hdisjoint j hj j hj' rfl).symm) (houter v i hi).symm

/-- Settles O34: each lane is outside one of the two applications. -/
theorem disjointMixesCommute : Obligations.DisjointMixesCommute := by
  intro v a b c d a' b' c' d' x y x' y' hnodup
  obtain ⟨-, -, hdisjoint⟩ := List.nodup_append.1 (show ([a, b, c, d] ++ [a', b', c', d']).Nodup from hnodup)
  refine Vector.ext fun k hk => ?_
  by_cases hmem : (⟨k, hk⟩ : Fin 16) ∈ [a', b', c', d']
  · have hswap : [a', b', c', d', a, b, c, d].Nodup :=
      (List.perm_append_comm (l₁ := [a, b, c, d]) (l₂ := [a', b', c', d'])).nodup hnodup
    exact (mixG_comm_of_not_mem (i := ⟨k, hk⟩) x' y' x y hswap fun h => hdisjoint _ h _ hmem rfl).symm
  · exact mixG_comm_of_not_mem (i := ⟨k, hk⟩) x y x' y' hnodup hmem

/-! ## The compression -/

/-- The working vector after the first `r` rounds. -/
def b2RoundsUpTo (h : Vector DWord 8) (M : List Byte) (t : BitVec 128) (f : Bool) (r : Nat) : Vector DWord 16 :=
  (sigma.take r).foldl (b2Round (b2Words M)) (b2Start h t f)

theorem b2RoundsUpTo_succ (h : Vector DWord 8) (M : List Byte) (t : BitVec 128) (f : Bool) {r : Nat} (hr : r < sigma.length) :
    b2RoundsUpTo h M t f (r + 1) = b2Round (b2Words M) (b2RoundsUpTo h M t f r) sigma[r] := by
  rw [b2RoundsUpTo, List.take_succ_eq_append_getElem hr, List.foldl_append]
  rfl

/-- A message word is the little-endian word of the block (R216). -/
theorem getElem_b2Words (M : List Byte) (i : Fin 16) : (b2Words M)[i] = le64 M (8 * i) := by
  simp [b2Words]

theorem Vector.exists_eq_of_size_eight {α : Type} (h : Vector α 8) :
    ∃ a b c d e f g k : α, h = #v[a, b, c, d, e, f, g, k] := by
  refine ⟨h[0], h[1], h[2], h[3], h[4], h[5], h[6], h[7], Vector.ext fun i hi => ?_⟩
  interval_cases i <;> rfl

/-- The vector before the rounds, lane by lane: the chaining value, then B2IV with the counter and the flag (R216, R220). -/
theorem b2Start_eq (h : Vector DWord 8) (t : BitVec 128) (f : Bool) :
    b2Start h t f = #v[h[0], h[1], h[2], h[3], h[4], h[5], h[6], h[7],
      0x6A09E667F3BCC908, 0xBB67AE8584CAA73B, 0x3C6EF372FE94F82B, 0xA54FF53A5F1D36F1,
      0x510E527FADE682D1 ^^^ t.extractLsb' 0 64, 0x9B05688C2B3E6C1F ^^^ t.extractLsb' 64 64,
      if f then ~~~0x1F83D9ABFB41BD6B#64 else 0x1F83D9ABFB41BD6B, 0x5BE0CD19137E2179] := by
  obtain ⟨h0, h1, h2, h3, h4, h5, h6, h7, rfl⟩ := Vector.exists_eq_of_size_eight h
  cases f <;> rfl

/-- The feed-forward of a working vector, as the compression writes it out (R216). -/
def feedForward (h : Vector DWord 8) (v : Vector DWord 16) : Vector DWord 8 :=
  #v[h[0] ^^^ v[0] ^^^ v[8], h[1] ^^^ v[1] ^^^ v[9], h[2] ^^^ v[2] ^^^ v[10], h[3] ^^^ v[3] ^^^ v[11],
     h[4] ^^^ v[4] ^^^ v[12], h[5] ^^^ v[5] ^^^ v[13], h[6] ^^^ v[6] ^^^ v[14], h[7] ^^^ v[7] ^^^ v[15]]

theorem getElem_feedForward (h : Vector DWord 8) (v : Vector DWord 16) (i : Fin 8) :
    (feedForward h v)[i] = h[i] ^^^ v[(i : Nat)] ^^^ v[(i : Nat) + 8] := by
  fin_cases i <;> rfl

theorem blake2bCompress_eq (h : Vector DWord 8) (M : List Byte) (t : BitVec 128) (f : Bool) :
    blake2bCompress h M t f = feedForward h (b2RoundsUpTo h M t f 12) := by
  rw [b2RoundsUpTo, List.take_of_length_le (show sigma.length ≤ 12 from le_rfl)]
  rfl

/-- Settles O35: the vector before the rounds lane by lane, the rounds over the rows of SIGMA, and the feed-forward. -/
theorem blake2bCompressionRule : Obligations.Blake2bCompressionRule := by
  intro h M t f m
  have hlow : t.extractLsb' 0 64 = BitVec.ofNat 64 (t.toNat % 2 ^ 64) := by
    refine BitVec.eq_of_toNat_eq ?_
    simp
  have hhigh : t.extractLsb' 64 64 = BitVec.ofNat 64 (t.toNat / 2 ^ 64) := by
    refine BitVec.eq_of_toNat_eq ?_
    simp [Nat.shiftRight_eq_div_pow]
  have hstart : b2RoundsUpTo h M t f 0 = b2Start h t f := rfl
  refine ⟨b2RoundsUpTo h M t f, fun i => ?_, ?_, ?_, ?_, ?_, ?_, ?_, ?_, ?_, fun r hr => ?_, fun i => ?_⟩
  · rw [hstart, b2Start_eq]
    fin_cases i <;> rfl
  case refine_10 =>
    refine ⟨sigma[r], List.getElem?_eq_getElem (l := sigma) hr, ?_⟩
    simp only [b2RoundsUpTo_succ h M t f (r := r) hr, b2Round, getElem_b2Words]
    rfl
  case refine_11 => rw [blake2bCompress_eq, getElem_feedForward]
  all_goals
    rw [hstart, b2Start_eq, hlow, hhigh]
    rfl

end Sys2Proof.Machine
end

section
/-! PROOF. The quarter-round, the Salsa20/8 core as a chain of them, and the zero block (44_salsa_scrypt.md R240 to R243, R246). -/

namespace Sys2Proof.Machine

/-! ## The quarter-round on its words (R241) -/

theorem quarterRound_on_its_words (x : Vector Word 16) (a b c d : Fin 16) (hnodup : [a, b, c, d].Nodup) :
    let b1 := x[b] ^^^ (x[a] + x[d]).rotateLeft 7
    let c1 := x[c] ^^^ (b1 + x[a]).rotateLeft 9
    let d1 := x[d] ^^^ (c1 + b1).rotateLeft 13
    let a1 := x[a] ^^^ (d1 + c1).rotateLeft 18
    let y := quarterRound x a b c d
    y[a] = a1 ∧ y[b] = b1 ∧ y[c] = c1 ∧ y[d] = d1 ∧ ∀ i : Fin 16, i ∉ [a, b, c, d] → y[i] = x[i] := by
  simp only [List.nodup_cons, List.mem_cons, List.not_mem_nil, or_false, not_or, not_false_eq_true, List.nodup_nil, and_true] at hnodup
  obtain ⟨⟨hab, hac, had⟩, ⟨hbc, hbd⟩, hcd⟩ := hnodup
  have hrot7 (w : Word) : rotl w 7 = w.rotateLeft 7 := rotl_eq_rotateLeft w (by decide) (by decide)
  have hrot9 (w : Word) : rotl w 9 = w.rotateLeft 9 := rotl_eq_rotateLeft w (by decide) (by decide)
  have hrot13 (w : Word) : rotl w 13 = w.rotateLeft 13 := rotl_eq_rotateLeft w (by decide) (by decide)
  have hrot18 (w : Word) : rotl w 18 = w.rotateLeft 18 := rotl_eq_rotateLeft w (by decide) (by decide)
  refine ⟨?_, ?_, ?_, ?_, fun i hi => ?_⟩
  case refine_5 =>
    simp only [List.mem_cons, List.not_mem_nil, or_false, not_or] at hi
    obtain ⟨hia, hib, hic, hid⟩ := hi
    simp only [quarterRound, Vector.getElem_fin_set, Ne.symm hia, Ne.symm hib, Ne.symm hic, Ne.symm hid, if_false]
  all_goals
    simp only [hrot7, hrot9, hrot13, hrot18, quarterRound, Vector.getElem_fin_set, hab, hac, had, hbc, hbd, hcd, Ne.symm hab,
      Ne.symm hac, Ne.symm had, Ne.symm hbc, Ne.symm hbd, Ne.symm hcd, if_true, if_false]

/-! ## The core (R243) -/

/-- Byte `4·i + j` of a list of words written little-endian is byte `j` of word `i`. -/
theorem byteAt_flatMap_le32bytes (l : List Word) {i : Nat} (hi : i < l.length) (j : Fin 4) :
    byteAt (l.flatMap le32bytes) (4 * i + j) = l[i].extractLsb' (8 * j) 8 := by
  induction l generalizing i with
  | nil => simp at hi
  | cons w l ih =>
    cases i with
    | zero => fin_cases j <;> rfl
    | succ i =>
      have hi : i < l.length := by simpa using hi
      rw [byteAt, List.flatMap_cons, List.getD_append_right _ _ _ _ (by rw [length_le32bytes]; omega), length_le32bytes,
        show 4 * (i + 1) + (j : Nat) - 4 = 4 * i + j by omega]
      exact ih hi

/-- The words of the core after `k` double-rounds. -/
def salsaRounds (B : List Byte) (k : Nat) : Vector Word 16 := doubleRound^[k] (salsaWords B)

theorem salsa20_8_eq (B : List Byte) :
    salsa20_8 B = (Vector.zipWith (· + ·) (salsaRounds B 4) (salsaRounds B 0)).toList.flatMap le32bytes := rfl

/-- Settles O37: the quarter-round on its words, and the core's chain of double-rounds. -/
theorem quarterRoundOnItsWords : Obligations.QuarterRoundOnItsWords := by
  refine ⟨quarterRound_on_its_words, fun B => ⟨salsaRounds B, fun i => ?_, fun k _ => ?_, length_salsa20_8 B, fun i j => ?_⟩⟩
  · have hword : (salsaWords B)[i] = le32 B (4 * i) := by simp [salsaWords]
    exact hword
  · exact Function.iterate_succ_apply' doubleRound k (salsaWords B)
  · rw [salsa20_8_eq, byteAt_flatMap_le32bytes _ (by rw [Vector.length_toList]; exact i.isLt)]
    simp

/-! ## The zero block (R243, R246 b) -/

theorem quarterRound_zero (a b c d : Fin 16) : quarterRound (Vector.replicate 16 0) a b c d = Vector.replicate 16 0 := by
  have hset (k : Fin 16) : (Vector.replicate 16 0#32).set k 0#32 = Vector.replicate 16 0#32 := by
    simp
  have hrot (n : Nat) : rotl 0#32 n = 0#32 := by simp [rotl, rotr]
  simp [quarterRound, hset, hrot]

theorem doubleRound_zero : doubleRound (Vector.replicate 16 0) = Vector.replicate 16 0 := by
  simp only [doubleRound, columnRound, rowRound, quarterRound_zero]

theorem salsa20_8_zero : salsa20_8 (List.replicate 64 0) = List.replicate 64 0 := by
  have hwords : salsaWords (List.replicate 64 0) = Vector.replicate 16 0 := by decide +kernel
  have hrounds : ∀ k, salsaRounds (List.replicate 64 0) k = Vector.replicate 16 0 := fun k => by
    rw [salsaRounds, hwords]
    exact Function.iterate_fixed doubleRound_zero k
  rw [salsa20_8_eq, hrounds, hrounds]
  decide +kernel

theorem chunk_zero {r i : Nat} (h : i < 2 * r) : chunk (List.replicate (128 * r) 0) i = List.replicate 64 0 := by
  rw [chunk, List.drop_replicate, List.take_replicate]
  congr 1
  omega

theorem xorBytes_zero (n : Nat) : xorBytes (List.replicate n 0) (List.replicate n 0) = List.replicate n 0 := by
  rw [xorBytes, List.zipWith_replicate]
  simp

theorem mixChunks_cons (T B : List Byte) (Bs : List (List Byte)) :
    mixChunks T (B :: Bs) = salsa20_8 (xorBytes T B) :: mixChunks (salsa20_8 (xorBytes T B)) Bs := rfl

theorem mixChunks_zero (n : Nat) :
    mixChunks (List.replicate 64 0) (List.replicate n (List.replicate 64 0)) = List.replicate n (List.replicate 64 0) := by
  induction n with
  | zero => rfl
  | succ n ih => rw [List.replicate_succ (n := n), mixChunks_cons, xorBytes_zero, salsa20_8_zero, ih]

theorem mixedChunks_zero_block {r : Nat} (h : 0 < r) :
    mixedChunks r (List.replicate (128 * r) 0) = List.replicate (2 * r) (List.replicate 64 0) := by
  have hchunks : (List.range (2 * r)).map (chunk (List.replicate (128 * r) 0)) = List.replicate (2 * r) (List.replicate 64 0) := by
    rw [List.map_congr_left fun i hi => chunk_zero (List.mem_range.1 hi), List.map_const', List.length_range]
  rw [mixedChunks, hchunks, chunk_zero (by omega), mixChunks_zero]

/-- Settles O39: every mixed chunk of the zero block is zero, in whatever order. -/
theorem zeroBlockIsFixed : Obligations.ZeroBlockIsFixed := by
  refine ⟨salsa20_8_zero, fun r => ?_⟩
  rcases Nat.eq_zero_or_pos r with rfl | hr
  · rfl
  have horder : evens (mixedChunks r (List.replicate (128 * r) 0)) ++ odds (mixedChunks r (List.replicate (128 * r) 0)) =
      List.replicate (2 * r) (List.replicate 64 0) := by
    rw [mixedChunks_zero_block hr]
    exact List.perm_replicate.1 (evens_odds_perm _)
  rw [blockmix_eq, horder, List.flatten_replicate_replicate]
  congr 1
  omega

end Sys2Proof.Machine
end

section
/-! PROOF. What a host access and what a step can do, said once (45_control.md R281 to R291; 60_exceptions.md R345, R358), and the
rules of single steps. -/

namespace Sys2Proof.Machine

/-! ## Host accesses -/

/-- What an access can make of the block, apart from its reply. -/
inductive HostEffect (s : State) : Access → State → Prop
  /-- A read, a rejected access, or a write of a read-only register (R282, R287). -/
  | unchanged (a : Access) : HostEffect s a s
  | softReset (v : Word) (hv : v.getLsbD 1 = true) : HostEffect s (.write 0x04 4 v) s.resetBlock
  | setIe (v : Word) (hv : v.getLsbD 1 = false) : HostEffect s (.write 0x04 4 v) { s with ie := v.getLsbD 0 }
  | acknowledge (v : Word) : HostEffect s (.write 0x08 4 v) (s.statusWrite v)
  /-- A write dropped while a command is pending (R286). -/
  | dropped (off : Nat) (v : Word) (hbusy : s.busy = true) : HostEffect s (.write off 4 v) { s with busywr := true }
  | issued (w : Word) (hidle : s.busy = false) : HostEffect s (.write 0x0C 4 w) (issue s w)
  | setScrypt (off : Nat) (v N r p : Word) (hidle : s.busy = false) :
      HostEffect s (.write off 4 v) { s with scryptN := N, scryptR := r, scryptP := p }
  | stored (off : Nat) (v : Word) (l : Loc) (hidle : s.busy = false) (hdata : l.isData = true)
      (hl : decodeAccess s.cfg off 4 = some l) : HostEffect s (.write off 4 v) (s.dataWrite v l)

/-- A location that is writable only while BUSY = 0 (R286). -/
theorem hostEffect_of_gated {s u : State} {off : Nat} {v : Word} {l : Loc}
    (hwrite : writeLoc s v l = if s.busy = true then { s with busywr := true } else u)
    (hidle : s.busy = false → HostEffect s (.write off 4 v) u) : HostEffect s (.write off 4 v) (writeLoc s v l) := by
  rw [hwrite]
  split_ifs with hbusy
  · exact .dropped off v hbusy
  · exact hidle (Bool.eq_false_of_not_eq_true hbusy)

/-- A write that reaches a location. -/
theorem hostEffect_writeLoc {s : State} {off : Nat} {l : Loc} (v : Word) (hl : decodeAccess s.cfg off 4 = some l) :
    HostEffect s (.write off 4 v) (writeLoc s v l) := by
  obtain ⟨-, -, hoff⟩ := decodeAccess_eq_some hl
  cases l with
  | id | errcmd | capXbuf | capScratch => exact .unchanged _
  | ctrl =>
    obtain rfl : 0x04 = off := hoff
    have hwrite : writeLoc s v .ctrl = s.ctrlWrite v := rfl
    cases hv : v.getLsbD 1 with
    | true =>
      rw [hwrite, ctrlWrite_of_reset hv]
      exact .softReset v hv
    | false =>
      rw [hwrite, ctrlWrite_of_not_reset hv]
      exact .setIe v hv
  | status =>
    obtain rfl : 0x08 = off := hoff
    exact .acknowledge v
  | cmd =>
    obtain rfl : 0x0C = off := hoff
    exact hostEffect_of_gated rfl (.issued v)
  | scryptN => exact hostEffect_of_gated rfl (.setScrypt off v v s.scryptR s.scryptP)
  | scryptR => exact hostEffect_of_gated rfl (.setScrypt off v s.scryptN v s.scryptP)
  | scryptP => exact hostEffect_of_gated rfl (.setScrypt off v s.scryptN s.scryptR v)
  | h256 | h512Hi | h512Lo | b2hLo | b2hHi | b2t | buffer =>
    exact hostEffect_of_gated (writeLoc_of_isData rfl) fun hidle => .stored off v _ hidle rfl hl

/-- Every access has one of the effects, and adds its reply. -/
theorem hostAccess_effect (s : State) (a : Access) : ∃ u r, HostEffect s a u ∧ hostAccess s a = u.reply r := by
  cases a with
  | read off size => exact ⟨s, _, .unchanged _, rfl⟩
  | write off size v =>
    cases hl : decodeAccess s.cfg off size with
    | none => exact ⟨s, _, .unchanged _, hostAccess_write_of_none v hl⟩
    | some l =>
      obtain ⟨rfl, -⟩ := decodeAccess_eq_some hl
      exact ⟨_, _, hostEffect_writeLoc v hl, by rw [hostAccess, hostWrite_of_some v hl]⟩

/-- Settles O51: of the effects while BUSY = 1 only the soft reset touches a field the command reads. -/
theorem busyAccessKeepsInputs : Obligations.BusyAccessKeepsInputs := by
  intro s a hbusy hnotReset
  obtain ⟨u, r, heffect, hu⟩ := hostAccess_effect s a
  rw [hu]
  cases heffect with
  | unchanged | setIe | dropped => exact ⟨hbusy, rfl, rfl, rfl, rfl, rfl, rfl, rfl, rfl, rfl, rfl, rfl, rfl⟩
  | acknowledge v =>
    rw [statusWrite_eq]
    exact ⟨hbusy, rfl, rfl, rfl, rfl, rfl, rfl, rfl, rfl, rfl, rfl, rfl, rfl⟩
  | softReset v hv => cases hv.symm.trans hnotReset
  | issued w hidle | setScrypt _ _ _ _ _ hidle | stored _ _ _ hidle => rw [hbusy] at hidle; cases hidle

/-! ## Steps -/

/-- The unit has the next turn: it stands first in the schedule, or nothing does (log entry 1). -/
def UnitsTurn (s : State) : Prop := s.inbox = [] ∨ ∃ es, s.inbox = .unit :: es

/-- The state with the oldest event of the schedule taken out of it. -/
def State.passTurn (s : State) : State := { s with inbox := s.inbox.tail }

theorem passTurn_of_nil {s : State} (h : s.inbox = []) : s.passTurn = s := by
  rw [State.passTurn, h, List.tail_nil, ← h]

theorem passTurn_of_cons {s : State} {e : Event} {es : List Event} (h : s.inbox = e :: es) :
    s.passTurn = { s with inbox := es } := by
  rw [State.passTurn, h, List.tail_cons]

/-- Validation reads the parameters and the SCRYPT registers only. -/
theorem validate_congr {s t : State} (hcfg : t.cfg = s.cfg) (hN : t.scryptN = s.scryptN) (hr : t.scryptR = s.scryptR)
    (hp : t.scryptP = s.scryptP) (w : Word) : validate t w = validate s w := by
  cases hdecode : decodeWord w with
  | error x => rw [validate_of_decodeWord_error t hdecode, validate_of_decodeWord_error s hdecode]
  | ok i =>
    rw [validate_of_decodeWord_ok t hdecode, validate_of_decodeWord_ok s hdecode]
    cases i with
    | blockmix => rw [validateInstr_blockmix, validateInstr_blockmix, hcfg, hr]
    | romix => rw [validateInstr_romix, validateInstr_romix, hcfg, hN, hr, hp]
    | _ => rfl

theorem turn_of_unitsTurn {s : State} (h : UnitsTurn s) : turn s = unitTurn s.passTurn := by
  obtain hinbox | ⟨es, hinbox⟩ := h
  · simp only [passTurn_of_nil hinbox, turn, hinbox]
  · simp only [passTurn_of_cons hinbox, turn, hinbox]

/-- A schedule begins with a host access or the RESET input, or the unit has the turn. -/
theorem inbox_cases (s : State) :
    (∃ a es, s.inbox = .host a :: es) ∨ (∃ es, s.inbox = .reset :: es) ∨ UnitsTurn s := by
  rcases hinbox : s.inbox with _ | ⟨a | _ | _, es⟩
  · exact .inr (.inr (.inl hinbox))
  · exact .inl ⟨a, es, rfl⟩
  · exact .inr (.inr (.inr ⟨es, hinbox⟩))
  · exact .inr (.inl ⟨es, rfl⟩)

section
variable {s : State} (hturn : UnitsTurn s)
include hturn

theorem step_of_idle (hidle : s.busy = false) : step s = .next s.passTurn := by
  have hidle : s.passTurn.busy = false := hidle
  simp only [step, turn_of_unitsTurn hturn, unitTurn, hidle, Bool.false_eq_true, if_false]

theorem step_of_no_pending (hbusy : s.busy = true) (hpending : s.pending = none) : step s = .fault .busyWithoutPending := by
  have hbusy : s.passTurn.busy = true := hbusy
  have hpending : s.passTurn.pending = none := hpending
  simp only [step, turn_of_unitsTurn hturn, unitTurn, hbusy, hpending, if_true]

/-- The unit runs the pending command. -/
theorem step_of_pending {w : Word} {i : Instr} (hbusy : s.busy = true) (hpending : s.pending = some w)
    (hdecode : decodeWord w = .ok i) : step s = exec i s.passTurn := by
  have hbusy : s.passTurn.busy = true := hbusy
  have hpending : s.passTurn.pending = some w := hpending
  simp only [step, turn_of_unitsTurn hturn, unitTurn, hbusy, hpending, hdecode, if_true]

/-- The unit completes a pending command that validates. -/
theorem step_of_valid {w : Word} {i : Instr} (hbusy : s.busy = true) (hpending : s.pending = some w)
    (hdecode : decodeWord w = .ok i) (hvalid : validate s w = none) : step s = .next (effectOf i s.passTurn).complete := by
  have hvalid : validate s.passTurn w = none := (validate_congr rfl rfl rfl rfl w).trans hvalid
  rw [validate_of_decodeWord_ok _ hdecode] at hvalid
  rw [step_of_pending hturn hbusy hpending hdecode, exec_of_valid hvalid]

/-- The unit rejects a pending word that does not validate (log entry 2). -/
theorem step_of_invalid {w : Word} {e : CmdError} (hbusy : s.busy = true) (hpending : s.pending = some w)
    (hinvalid : validate s w = some e) : step s = .next (s.passTurn.release.reject e w) := by
  cases hdecode : decodeWord w with
  | ok i =>
    have hinvalid : validate s.passTurn w = some e := (validate_congr rfl rfl rfl rfl w).trans hinvalid
    rw [validate_of_decodeWord_ok _ hdecode] at hinvalid
    rw [step_of_pending hturn hbusy hpending hdecode, exec_of_invalid hinvalid, encode_of_decodeWord hdecode]
  | error x =>
    obtain rfl := Option.some.inj ((validate_of_decodeWord_error s hdecode).symm.trans hinvalid)
    have hbusy : s.passTurn.busy = true := hbusy
    have hpending : s.passTurn.pending = some w := hpending
    simp only [step, turn_of_unitsTurn hturn, unitTurn, hbusy, hpending, hdecode, if_true]

end

/-- What a step that answers the state `t` can be. -/
inductive StepCase (s t : State) : Prop
  | host (a : Access) (es : List Event) (u : State) (r : Reply) (hinbox : s.inbox = .host a :: es)
      (heffect : HostEffect { s with inbox := es } a u) (ht : t = u.reply r)
  | reset (es : List Event) (hinbox : s.inbox = .reset :: es) (ht : t = State.resetBlock { s with inbox := es })
  | idle (hturn : UnitsTurn s) (hidle : s.busy = false) (ht : t = s.passTurn)
  | completed (w : Word) (i : Instr) (hturn : UnitsTurn s) (hbusy : s.busy = true) (hpending : s.pending = some w)
      (hdecode : decodeWord w = .ok i) (hvalid : validate s w = none) (ht : t = (effectOf i s.passTurn).complete)
  | rejected (w : Word) (e : CmdError) (hturn : UnitsTurn s) (hbusy : s.busy = true) (hpending : s.pending = some w)
      (hinvalid : validate s w = some e) (ht : t = s.passTurn.release.reject e w)

theorem stepCase_of_next {s t : State} (h : step s = .next t) : StepCase s t := by
  obtain ⟨a, es, hinbox⟩ | ⟨es, hinbox⟩ | hturn := inbox_cases s
  · obtain ⟨u, r, heffect, hu⟩ := hostAccess_effect { s with inbox := es } a
    exact .host a es u r hinbox heffect ((Host.Outcome.next.inj ((step_host hinbox).symm.trans h)).symm.trans hu)
  · exact .reset es hinbox (Host.Outcome.next.inj ((step_reset hinbox).symm.trans h)).symm
  · cases hbusy : s.busy with
    | false => exact .idle hturn hbusy (Host.Outcome.next.inj ((step_of_idle hturn hbusy).symm.trans h)).symm
    | true =>
      cases hpending : s.pending with
      | none => cases (step_of_no_pending hturn hbusy hpending).symm.trans h
      | some w =>
        cases hvalidate : validate s w with
        | some e =>
          exact .rejected w e hturn hbusy hpending hvalidate
            (Host.Outcome.next.inj ((step_of_invalid hturn hbusy hpending hvalidate).symm.trans h)).symm
        | none =>
          cases hdecode : decodeWord w with
          | error x => cases (validate_of_decodeWord_error _ hdecode).symm.trans hvalidate
          | ok i =>
            exact .completed w i hturn hbusy hpending hdecode hvalidate
              (Host.Outcome.next.inj ((step_of_valid hturn hbusy hpending hdecode hvalidate).symm.trans h)).symm

/-- Settles O45: the unit's turn, first in the schedule or for want of an event. -/
theorem stepRunsPendingCommand : Obligations.StepRunsPendingCommand := by
  intro s es w i hbusy hpending hdecode
  refine ⟨fun hinbox => step_unit hinbox hbusy hpending hdecode, fun hinbox => ?_⟩
  rw [step_of_pending (.inl hinbox) hbusy hpending hdecode, passTurn_of_nil hinbox]

/-- Settles O46: the two kinds of step; a placed word is pending, and the unit has the turn. -/
theorem stepPerformsHostAccess : Obligations.StepPerformsHostAccess := by
  refine ⟨fun s es a hinbox => step_host hinbox, fun s i => ?_⟩
  have hplaced : s.withFetchWord 32 (encode i).toNat = s.withPending (encode i) := by
    rw [State.withFetchWord, BitVec.ofNat_toNat, BitVec.setWidth_eq]
  rw [hplaced]
  exact step_unit (s := s.withPending (encode i)) rfl rfl rfl (decodeWord_encode i)

/-- Settles O47: the unit's turn in an idle block passes. -/
theorem idleUnitHoldsState : Obligations.IdleUnitHoldsState := by
  intro s es hidle
  refine ⟨fun hinbox => ?_, fun hinbox => ?_⟩
  · rw [step_of_idle (.inl hinbox) hidle, passTurn_of_nil hinbox]
  · rw [step_of_idle (.inr ⟨es, hinbox⟩) hidle, passTurn_of_cons hinbox]

/-- Settles O19: the reset state, with the parameters, the schedule and the replies of before. -/
theorem hardwareResetFromAnyState : Obligations.HardwareResetFromAnyState :=
  fun _ _ hinbox => ⟨_, step_reset hinbox, rfl, [], rfl⟩

/-! ## The finalized flag (R47) -/

/-- Of the host's accesses only the soft reset touches B2FIN. -/
theorem HostEffect.b2fin_eq {s u : State} {a : Access} (h : HostEffect s a u) :
    u.b2fin = s.b2fin ∨ u.b2fin = false ∧ ∃ v, a = .write 0x04 4 v ∧ v.getLsbD 1 = true := by
  cases h with
  | softReset v hv => exact .inr ⟨rfl, v, rfl, hv⟩
  | acknowledge v =>
    rw [statusWrite_eq]
    exact .inl rfl
  | issued w =>
    rw [issue]
    split
    · exact .inl rfl
    · exact .inl rfl
  | stored off v l =>
    rw [dataWrite_eq]
    exact .inl rfl
  | unchanged | setIe | dropped | setScrypt => exact .inl rfl

/-- Of the effects only BLAKE2B_INIT clears B2FIN, and only a final BLAKE2B_COMPRESS sets it. -/
theorem effectOf_b2fin_cases (i : Instr) (s : State) :
    (effectOf i s).b2fin = s.b2fin ∨
    ((effectOf i s).b2fin = false ∧ ∃ nn kk, i = .blake2bInit nn kk) ∨
    ((effectOf i s).b2fin = true ∧ ∃ len, i = .blake2bCompress len true) := by
  cases i with
  | blake2bInit nn kk => exact .inr (.inl ⟨rfl, nn, kk, rfl⟩)
  | blake2bCompress len f =>
    rw [effectOf, blake2bCompressEffect]
    split_ifs with hfin
    · exact .inl rfl
    · cases f with
      | true => exact .inr (.inr ⟨rfl, len, rfl⟩)
      | false => exact .inl (Bool.eq_false_of_not_eq_true hfin).symm
  | romix =>
    rw [effectOf_romix]
    exact .inl rfl
  | _ => exact .inl rfl

/-- Settles O53: of the cases of a step only the resets and the completion of a BLAKE2b command touch B2FIN. -/
theorem finalizedFlagRule : Obligations.FinalizedFlagRule := by
  intro s t h unitsTurn
  suffices hcases : t.b2fin = s.b2fin ∨
      (t.b2fin = false ∧ ((unitsTurn ∧ ∃ w nn kk, s.pending = some w ∧ decodeWord w = .ok (.blake2bInit nn kk)) ∨
        (∃ es, s.inbox = .reset :: es) ∨ (∃ v es, s.inbox = .host (.write 0x04 4 v) :: es ∧ v.getLsbD 1 = true))) ∨
      (t.b2fin = true ∧ unitsTurn ∧ ∃ w len, s.pending = some w ∧ decodeWord w = .ok (.blake2bCompress len true)) by
    obtain hsame | ⟨hclear, hhow⟩ | ⟨hset, hhow⟩ := hcases
    · exact ⟨fun h1 h0 => absurd (hsame.symm.trans h0) (by rw [h1]; decide),
        fun h0 h1 => absurd (hsame.symm.trans h1) (by rw [h0]; decide)⟩
    · exact ⟨fun _ _ => hhow, fun _ h1 => absurd (hclear.symm.trans h1) (by decide)⟩
    · exact ⟨fun _ h0 => absurd (hset.symm.trans h0) (by decide), fun _ _ => hhow⟩
  cases stepCase_of_next h with
  | host a es u r hinbox heffect ht =>
    subst ht
    obtain hsame | ⟨hclear, v, rfl, hv⟩ := heffect.b2fin_eq
    · exact .inl hsame
    · exact .inr (.inl ⟨hclear, .inr (.inr ⟨v, es, hinbox, hv⟩)⟩)
  | reset es hinbox ht =>
    subst ht
    exact .inr (.inl ⟨rfl, .inr (.inl ⟨es, hinbox⟩)⟩)
  | idle _ _ ht =>
    subst ht
    exact .inl rfl
  | completed w i hturn _ hpending hdecode _ ht =>
    subst ht
    obtain hsame | ⟨hclear, nn, kk, rfl⟩ | ⟨hset, len, rfl⟩ := effectOf_b2fin_cases i s.passTurn
    · exact .inl hsame
    · exact .inr (.inl ⟨hclear, .inl ⟨hturn, w, nn, kk, hpending, hdecode⟩⟩)
    · exact .inr (.inr ⟨hset, hturn, w, len, hpending, hdecode⟩)
  | rejected _ _ _ _ _ _ ht =>
    subst ht
    exact .inl rfl

/-! ## The sequencer (R290) -/

/-- Of the host's accesses only a soft reset and the issue of a word touch BUSY and PENDING. -/
theorem HostEffect.sequencer_cases {s u : State} {a : Access} (h : HostEffect s a u) :
    (u.busy = s.busy ∧ u.pending = s.pending) ∨
    (u.busy = false ∧ ∃ v, a = .write 0x04 4 v ∧ v.getLsbD 1 = true) ∨
    (s.busy = false ∧ ∃ w, a = .write 0x0C 4 w ∧ validate s w = none ∧ u.pending = some w) := by
  cases h with
  | softReset v hv => exact .inr (.inl ⟨rfl, v, rfl, hv⟩)
  | acknowledge v =>
    rw [statusWrite_eq]
    exact .inl ⟨rfl, rfl⟩
  | issued w hidle =>
    cases hvalidate : validate s w with
    | some e =>
      rw [issue_of_some hvalidate]
      exact .inl ⟨rfl, rfl⟩
    | none =>
      rw [issue_of_none hvalidate]
      exact .inr (.inr ⟨hidle, w, rfl, hvalidate, rfl⟩)
  | stored off v l =>
    rw [dataWrite_eq]
    exact .inl ⟨rfl, rfl⟩
  | unchanged | setIe | dropped | setScrypt => exact .inl ⟨rfl, rfl⟩

/-- Settles O52: the transitions are those of the cases of a step. -/
theorem sequencerTransitions : Obligations.SequencerTransitions := by
  intro s t _ h
  cases stepCase_of_next h with
  | host a es u r hinbox heffect ht =>
    subst ht
    obtain ⟨hbusy, hpending⟩ | ⟨hidle', v, rfl, hv⟩ | ⟨hidle, w, rfl, hvalid, hpending⟩ := heffect.sequencer_cases
    · exact ⟨fun h0 h1 => absurd (h0.symm.trans (hbusy.symm.trans h1)) (by decide),
        fun h1 h0 => absurd (h1.symm.trans (hbusy.symm.trans h0)) (by decide), fun _ _ => hpending⟩
    · exact ⟨fun _ h1 => absurd (hidle'.symm.trans h1) (by decide), fun _ _ => .inr (.inr (.inr ⟨v, es, hinbox, hv⟩)),
        fun _ h1 => absurd (hidle'.symm.trans h1) (by decide)⟩
    · have hvalid : validate s w = none := (validate_congr rfl rfl rfl rfl w).trans hvalid
      exact ⟨fun _ _ => ⟨w, es, hinbox, hvalid, hpending⟩, fun h1 => absurd (hidle.symm.trans h1) (by decide),
        fun h1 => absurd (hidle.symm.trans h1) (by decide)⟩
  | reset es hinbox ht =>
    subst ht
    exact ⟨nofun, fun _ _ => .inr (.inr (.inl ⟨es, hinbox⟩)), nofun⟩
  | idle _ hidle ht =>
    subst ht
    exact ⟨fun _ h1 => absurd (hidle.symm.trans h1) (by decide), fun h1 => absurd (hidle.symm.trans h1) (by decide),
      fun h1 => absurd (hidle.symm.trans h1) (by decide)⟩
  | completed _ _ hturn _ _ _ _ ht | rejected _ _ hturn _ _ _ ht =>
    subst ht
    exact ⟨nofun, fun _ _ => hturn.imp_right .inl, nofun⟩

end Sys2Proof.Machine
end

section
/-! PROOF. The invariant of the block is kept by every step (10_state.md R50, R55; 60_exceptions.md R340, R345; 44_salsa_scrypt.md
R252). It is taken apart into the sequencer, the error record and the stored bytes. -/

namespace Sys2Proof.Machine

/-! ## The parts of the invariant -/

/-- BUSY = 1 iff a command is pending, and the pending word validates (R50, R345). -/
def SequencerInv (s : State) : Prop := s.busy = s.pending.isSome ∧ ∀ w, s.pending = some w → validate s w = none

/-- The error record holds a code of R340, or is clear (R55). -/
def ErrorInv (err : Bool) (errcode : BitVec 8) (errcmd : Word) : Prop :=
  (err = false → errcode = 0 ∧ errcmd = 0) ∧ (err = true → 1 ≤ errcode.toNat ∧ errcode.toNat ≤ 8)

/-- The buffers and the scratch table are canonical and lie within the sizes that R9 allows. -/
structure StorageInv (c : Config) (mem scratch : Memory) : Prop where
  mem_wf : mem.wf = true
  mem_mapped : ∀ x ∈ mem, inBuffer c x.1 = true
  scratch_wf : scratch.wf = true
  scratch_bound : ∀ x ∈ scratch, x.1 < c.scratchBytes
  cfg_wf : c.wf = true

theorem inv_iff {s : State} :
    Inv s ↔ SequencerInv s ∧ ErrorInv s.err s.errcode s.errcmd ∧ StorageInv s.cfg s.mem s.scratch := by
  constructor
  · intro h
    exact ⟨⟨h.busy_pending, h.pending_valid⟩, ⟨h.err_clear, h.err_code⟩,
      ⟨h.mem_wf, h.mem_mapped, h.scratch_wf, h.scratch_bound, h.cfg_wf⟩⟩
  · rintro ⟨⟨hbusy, hvalid⟩, ⟨hclear, hcode⟩, hwf, hmapped, hswf, hbound, hcfg⟩
    exact ⟨hbusy, hclear, hcode, hvalid, hwf, hmapped, hswf, hbound, hcfg⟩

theorem SequencerInv.of_idle {s : State} (hbusy : s.busy = false) (hpending : s.pending = none) : SequencerInv s :=
  ⟨by rw [hbusy, hpending]; rfl, fun w hw => by rw [hpending] at hw; cases hw⟩

theorem SequencerInv.pending_of_idle {s : State} (h : SequencerInv s) (hidle : s.busy = false) : s.pending = none :=
  Option.isNone_iff_eq_none.1 (by rw [← Option.not_isSome, ← h.1, hidle]; rfl)

theorem SequencerInv.congr {s t : State} (h : SequencerInv s) (hbusy : t.busy = s.busy) (hpending : t.pending = s.pending)
    (hcfg : t.cfg = s.cfg) (hN : t.scryptN = s.scryptN) (hr : t.scryptR = s.scryptR) (hp : t.scryptP = s.scryptP) :
    SequencerInv t :=
  ⟨by rw [hbusy, hpending, h.1], fun w hw => (validate_congr hcfg hN hr hp w).trans (h.2 w (hpending.symm.trans hw))⟩

theorem ErrorInv.clear : ErrorInv false 0 0 := ⟨fun _ => ⟨rfl, rfl⟩, nofun⟩

theorem ErrorInv.code (e : CmdError) (w : Word) : ErrorInv true e.code w :=
  ⟨nofun, fun _ => by cases e <;> decide⟩

/-- A store in the buffers (R23). -/
theorem StorageInv.writeBytes {c : Config} {mem scratch : Memory} (h : StorageInv c mem scratch) {base : Nat} {bs : List Byte}
    (hrange : ∀ a, base ≤ a → a < base + bs.length → inBuffer c a = true) : StorageInv c (mem.writeBytes base bs) scratch where
  mem_wf := Memory.wf_writeBytes h.mem_wf base bs
  mem_mapped x hx := (Memory.mem_writeBytes hx).elim (h.mem_mapped x) fun ⟨hlow, hhigh⟩ => hrange x.1 hlow hhigh
  scratch_wf := h.scratch_wf
  scratch_bound := h.scratch_bound
  cfg_wf := h.cfg_wf

/-- A store in XBUF that fits (R48). -/
theorem StorageInv.writeXbuf {c : Config} {mem scratch : Memory} (h : StorageInv c mem scratch) {bs : List Byte}
    (hfits : bs.length ≤ c.xbufBytes) : StorageInv c (mem.writeBytes (xbufBase + 0) bs) scratch := by
  refine h.writeBytes fun a hlow hhigh => inBuffer_iff.2 ?_
  simp only [xbufBase] at hlow hhigh
  omega

theorem Config.wf_iff {c : Config} : c.wf = true ↔
    c.xbufBytes % 128 = 0 ∧ 128 ≤ c.xbufBytes ∧ c.xbufBytes ≤ 65536 ∧
      c.scratchBytes % 1024 = 0 ∧ 1024 ≤ c.scratchBytes ∧ c.scratchBytes < 2 ^ 42 :=
  decide_eq_true_iff

/-- The buffer location that an access reaches is an aligned word of a buffer (R23, R64). -/
theorem buffer_of_decodeAccess {c : Config} {off size off' : Nat} (h : decodeAccess c off size = some (.buffer off')) :
    off % 4 = 0 ∧ off' = off ∧ inBuffer c off = true := by
  obtain ⟨-, -, rfl⟩ := decodeAccess_eq_some h
  have h4 := offset_aligned_of_decodeAccess h
  have hlocate : locate c off' = some (.buffer off') := by
    unfold decodeAccess at h
    split_ifs at h
    exact h
  refine ⟨h4, rfl, ?_⟩
  obtain ⟨m, -, hm, hdata, -⟩ | ⟨_, -, hm⟩ | ⟨_, -, hm⟩ | ⟨_, -, hm⟩ | ⟨_, -, hm⟩ | ⟨_, -, hm⟩ | ⟨_, -, hm⟩ | ⟨hbuffer, -⟩ |
    ⟨-, -, hm⟩ := locate_cases c off' h4
  · obtain rfl := Option.some.inj (hm.symm.trans hlocate)
    cases hdata
  iterate 6 cases hm.symm.trans hlocate
  · exact hbuffer
  · cases hm.symm.trans hlocate

/-- A data write stores in the buffer of its location, or in a register. -/
theorem StorageInv.dataWrite {s : State} (h : StorageInv s.cfg s.mem s.scratch) {off : Nat} {l : Loc} (v : Word)
    (hl : decodeAccess s.cfg off 4 = some l) : StorageInv s.cfg (s.dataWrite v l).mem s.scratch := by
  cases l with
  | buffer off' =>
    obtain ⟨h4, rfl, hbuffer⟩ := buffer_of_decodeAccess hl
    refine StorageInv.writeBytes h fun a hlow hhigh => inBuffer_iff.2 ?_
    have hxbuf := (Config.wf_iff.1 h.cfg_wf).1
    have hrange := inBuffer_iff.1 hbuffer
    rw [length_le32bytes] at hhigh
    omega
  | _ => exact h

/-- ROMIX stays within XBUF and the scratch table (R252, R257). -/
theorem StorageInv.romixOn {c : Config} {mem scratch : Memory} (h : StorageInv c mem scratch) {N r p : Nat}
    (hxbuf : 128 * r * p ≤ c.xbufBytes) (hscratch : 128 * r * N ≤ c.scratchBytes) :
    StorageInv c (romixOn N r p (mem, scratch)).1 (romixOn N r p (mem, scratch)).2 where
  mem_wf := (wf_romixOn N r p mem scratch h.mem_wf h.scratch_wf).1
  mem_mapped x hx := (mem_romixOn_fst N r p mem scratch hx).elim (h.mem_mapped x) fun hrange => inBuffer_iff.2 (by omega)
  scratch_wf := (wf_romixOn N r p mem scratch h.mem_wf h.scratch_wf).2
  scratch_bound x hx := (mem_romixOn_snd N r p mem scratch hx).elim (h.scratch_bound x) fun hrange => by omega
  cfg_wf := h.cfg_wf

/-- The effect of a command that validates stays within the buffers and the scratch table. -/
theorem StorageInv.effectOf {s : State} (h : StorageInv s.cfg s.mem s.scratch) {i : Instr} (hvalid : validateInstr s i = none) :
    StorageInv s.cfg (effectOf i s).mem (effectOf i s).scratch := by
  by_cases hi : i ∈ [.salsa20_8, .blockmix, .romix]
  · fin_cases hi
    · refine h.writeXbuf ?_
      rw [length_salsa20_8]
      exact Nat.le_trans (by decide) (Config.wf_iff.1 h.cfg_wf).2.1
    · refine h.writeXbuf ?_
      rw [length_blockmix]
      exact (validateInstr_blockmix_eq_none.1 hvalid).2
    · obtain ⟨-, -, -, -, hxbuf, hscratch⟩ := romixVerdict_eq_none.1 hvalid
      rw [effectOf_romix]
      exact h.romixOn hxbuf hscratch
  · rw [effectOf_mem s hi, effectOf_scratch s fun h => hi (by rw [h]; decide)]
    exact h

/-! ## Every step -/

theorem storageInv_reset {c : Config} (h : c.wf = true) : StorageInv c [] [] :=
  ⟨rfl, nofun, rfl, nofun, h⟩

theorem inv_resetWith {c : Config} (h : c.wf = true) : Inv (State.resetWith c) :=
  inv_iff.2 ⟨.of_idle rfl rfl, .clear, storageInv_reset h⟩

/-- Settles O49: the reset state is idle, without an error record, its memories empty. -/
theorem invariantAtReset : Obligations.InvariantAtReset :=
  ⟨inv_resetWith (by decide), fun _ => inv_resetWith⟩

theorem Inv.resetBlock {s : State} (h : Inv s) : Inv s.resetBlock :=
  inv_iff.2 ⟨.of_idle rfl rfl, .clear, storageInv_reset h.cfg_wf⟩

/-- The schedule is not part of the invariant. -/
theorem Inv.setInbox {s : State} (h : Inv s) (es : List Event) : Inv { s with inbox := es } := by
  obtain ⟨hseq, herr, hstorage⟩ := inv_iff.1 h
  exact inv_iff.2 ⟨hseq.congr rfl rfl rfl rfl rfl rfl, herr, hstorage⟩

theorem Inv.reply {s : State} (h : Inv s) (r : Reply) : Inv (s.reply r) := by
  obtain ⟨hseq, herr, hstorage⟩ := inv_iff.1 h
  exact inv_iff.2 ⟨hseq.congr rfl rfl rfl rfl rfl rfl, herr, hstorage⟩

/-- Issuing a word while idle records its rejection, or makes it pending having validated it. -/
theorem Inv.issue {s : State} (h : Inv s) (w : Word) : Inv (issue s w) := by
  obtain ⟨hseq, herr, hstorage⟩ := inv_iff.1 h
  cases hvalidate : validate s w with
  | some e =>
    rw [issue_of_some hvalidate]
    exact inv_iff.2 ⟨hseq.congr rfl rfl rfl rfl rfl rfl, .code e w, hstorage⟩
  | none =>
    rw [issue_of_none hvalidate]
    refine inv_iff.2 ⟨⟨rfl, fun w' hw' => ?_⟩, herr, hstorage⟩
    obtain rfl := Option.some.inj hw'
    exact (validate_congr rfl rfl rfl rfl w).trans hvalidate

/-- Every host access keeps the invariant. -/
theorem Inv.hostEffect {s u : State} {a : Access} (h : Inv s) (heffect : HostEffect s a u) : Inv u := by
  obtain ⟨hseq, herr, hstorage⟩ := inv_iff.1 h
  cases heffect with
  | unchanged => exact h
  | softReset => exact h.resetBlock
  | setIe | dropped => exact inv_iff.2 ⟨hseq.congr rfl rfl rfl rfl rfl rfl, herr, hstorage⟩
  | acknowledge v =>
    rw [statusWrite_eq]
    refine inv_iff.2 ⟨hseq.congr rfl rfl rfl rfl rfl rfl, ?_, hstorage⟩
    cases v.getLsbD 2 with
    | true => simpa using ErrorInv.clear
    | false => simpa using herr
  | issued w => exact h.issue w
  | setScrypt off v N r p hidle =>
    exact inv_iff.2 ⟨.of_idle hidle (hseq.pending_of_idle hidle), herr, hstorage⟩
  | stored off v l hidle hdata hl =>
    have hframe := dataWrite_eq s v l
    have hmem := hstorage.dataWrite v hl
    rw [hframe]
    exact inv_iff.2 ⟨.of_idle hidle (hseq.pending_of_idle hidle), herr, hmem⟩

/-- The end of a command, completed or rejected, keeps the invariant. -/
theorem Inv.complete_effectOf {s : State} {i : Instr} (h : Inv s) (hvalid : validateInstr s i = none) :
    Inv (effectOf i s).complete := by
  obtain ⟨-, herr, hstorage⟩ := inv_iff.1 h
  refine inv_iff.2 ⟨.of_idle rfl rfl, ?_, ?_⟩
  · simpa using herr
  · simpa using hstorage.effectOf hvalid

theorem Inv.release_reject {s : State} (h : Inv s) (e : CmdError) (w : Word) : Inv (s.release.reject e w) :=
  inv_iff.2 ⟨.of_idle rfl rfl, .code e w, (inv_iff.1 h).2.2⟩

/-- Settles O48: each case of a step keeps the three parts of the invariant. -/
theorem stepKeepsInvariant : Obligations.StepKeepsInvariant := by
  intro s t h hstep
  cases stepCase_of_next hstep with
  | host a es u r hinbox heffect ht =>
    subst ht
    exact ((h.setInbox es).hostEffect heffect).reply r
  | reset es hinbox ht =>
    subst ht
    exact (h.setInbox es).resetBlock
  | idle hturn hidle ht =>
    subst ht
    exact h.setInbox _
  | completed w i hturn hbusy hpending hdecode hvalid ht =>
    subst ht
    have hvalid : validate s.passTurn w = none := (validate_congr rfl rfl rfl rfl w).trans hvalid
    exact (h.setInbox _).complete_effectOf ((validate_of_decodeWord_ok _ hdecode).symm.trans hvalid)
  | rejected w e hturn hbusy hpending hinvalid ht =>
    subst ht
    exact (h.setInbox _).release_reject e w

/-- Settles O50: the only stop, BUSY = 1 with no pending word, is shut out by the invariant. -/
theorem machineNeverStops : Obligations.MachineNeverStops := by
  intro s h
  obtain ⟨a, es, hinbox⟩ | ⟨es, hinbox⟩ | hturn := inbox_cases s
  · exact ⟨_, step_host hinbox⟩
  · exact ⟨_, step_reset hinbox⟩
  cases hbusy : s.busy with
  | false => exact ⟨_, step_of_idle hturn hbusy⟩
  | true =>
    obtain ⟨w, hpending⟩ := Option.isSome_iff_exists.1 (h.busy_pending.symm.trans hbusy)
    have hvalid : validate s w = none := h.pending_valid w hpending
    cases hdecode : decodeWord w with
    | ok i => exact ⟨_, step_of_valid hturn hbusy hpending hdecode hvalid⟩
    | error x => cases (validate_of_decodeWord_error _ hdecode).symm.trans hvalid

end Sys2Proof.Machine
end

section
/-! PROOF. The scratch table is never observable (10_state.md R49, R53; 44_salsa_scrypt.md R254): states that differ in it only stay
so under every access, every command and every step. -/

namespace Sys2Proof.Machine

theorem sameButScratch_iff {s t : State} : SameButScratch s t ↔ ∃ m, t = { s with scratch := m } := by
  constructor
  · intro h
    exact ⟨t.scratch, h.symm⟩
  · rintro ⟨m, rfl⟩
    rfl

theorem SameButScratch.reply {s t : State} (h : SameButScratch s t) (r : Reply) : SameButScratch (s.reply r) (t.reply r) := by
  obtain ⟨m, rfl⟩ := sameButScratch_iff.1 h
  rfl

theorem issue_setScratch (s : State) (m : Memory) (w : Word) :
    issue { s with scratch := m } w = { issue s w with scratch := m } := by
  have hsame : validate { s with scratch := m } w = validate s w := validate_congr rfl rfl rfl rfl w
  cases hvalidate : validate s w with
  | some e =>
    rw [issue_of_some hvalidate, issue_of_some (hsame.trans hvalidate)]
    rfl
  | none =>
    rw [issue_of_none hvalidate, issue_of_none (hsame.trans hvalidate)]
    rfl

/-- A write that reaches a location. -/
theorem sameButScratch_writeLoc (s : State) (m : Memory) (v : Word) (l : Loc) :
    SameButScratch (writeLoc s v l) (writeLoc { s with scratch := m } v l) := by
  have gated {u u' : State} (h : SameButScratch u u') :
      SameButScratch (if s.busy = true then { s with busywr := true } else u)
        (if s.busy = true then { { s with scratch := m } with busywr := true } else u') := by
    split_ifs
    · rfl
    · exact h
  cases l with
  | id | errcmd | capXbuf | capScratch => rfl
  | ctrl =>
    have hwrite (s : State) : writeLoc s v .ctrl = s.ctrlWrite v := rfl
    rw [hwrite, hwrite]
    cases hv : v.getLsbD 1 with
    | true =>
      rw [ctrlWrite_of_reset hv, ctrlWrite_of_reset hv]
      rfl
    | false =>
      rw [ctrlWrite_of_not_reset hv, ctrlWrite_of_not_reset hv]
      rfl
  | status =>
    have hwrite (s : State) : writeLoc s v .status = s.statusWrite v := rfl
    rw [hwrite, hwrite, statusWrite_eq, statusWrite_eq]
    rfl
  | cmd => exact gated (sameButScratch_iff.2 ⟨m, issue_setScratch s m v⟩)
  | _ => exact gated rfl

theorem sameButScratch_hostAccess (s : State) (m : Memory) (a : Access) :
    SameButScratch (hostAccess s a) (hostAccess { s with scratch := m } a) := by
  cases a with
  | read off size =>
    have hread : hostRead { s with scratch := m } off size = hostRead s off size :=
      hostRead_congr rfl fun l _ => by cases l <;> rfl
    rw [hostAccess, hostAccess, hread]
    exact SameButScratch.reply (sameButScratch_iff.2 ⟨m, rfl⟩) _
  | write off size v =>
    cases hl : decodeAccess s.cfg off size with
    | none =>
      rw [hostAccess_write_of_none v hl, hostAccess_write_of_none (s := { s with scratch := m }) v hl]
      rfl
    | some l =>
      rw [hostAccess, hostAccess, hostWrite_of_some v hl, hostWrite_of_some (s := { s with scratch := m }) v hl]
      exact (sameButScratch_writeLoc s m v l).reply _

/-- A command's effect does not depend on the scratch table: ROMix reads back only what it wrote (R254). -/
theorem sameButScratch_effectOf (i : Instr) (s : State) (m : Memory) :
    SameButScratch (effectOf i s) (effectOf i { s with scratch := m }) := by
  cases i with
  | blake2bCompress len f =>
    simp only [effectOf, blake2bCompressEffect]
    split_ifs
    · rfl
    · rfl
  | romix =>
    have hmem : (romixOn s.costN s.blockR s.parP (s.mem, m)).1 = (romixOn s.costN s.blockR s.parP (s.mem, s.scratch)).1 :=
      romixOn_fst_congr _ _ _ _ _ _
    rw [effectOf_romix, effectOf_romix, ← hmem]
    rfl
  | _ => rfl

/-- A turn of the unit. -/
theorem sameOutcomeButScratch_of_unitsTurn {s : State} (m : Memory) (hturn : UnitsTurn s) :
    SameOutcomeButScratch (step s) (step { s with scratch := m }) := by
  have hturn' : UnitsTurn { s with scratch := m } := hturn
  have hvalidate (w : Word) : validate { s with scratch := m } w = validate s w := validate_congr rfl rfl rfl rfl w
  obtain hbusy | hidle := Bool.eq_false_or_eq_true s.busy
  · obtain hpending | ⟨w, hpending⟩ := Option.eq_none_or_eq_some s.pending
    · rw [step_of_no_pending hturn hbusy hpending, step_of_no_pending hturn' hbusy hpending]
      rfl
    · cases hv : validate s w with
      | some e =>
        rw [step_of_invalid hturn hbusy hpending hv, step_of_invalid hturn' hbusy hpending ((hvalidate w).trans hv)]
        rfl
      | none =>
        cases hdecode : decodeWord w with
        | error x => cases (validate_of_decodeWord_error s hdecode).symm.trans hv
        | ok i =>
          obtain ⟨m', hm'⟩ := sameButScratch_iff.1 (sameButScratch_effectOf i s.passTurn m)
          have hpass : State.passTurn { s with scratch := m } = { s.passTurn with scratch := m } := rfl
          rw [step_of_valid hturn hbusy hpending hdecode hv,
            step_of_valid hturn' hbusy hpending hdecode ((hvalidate w).trans hv), hpass, hm']
          rfl
  · rw [step_of_idle hturn hidle, step_of_idle hturn' hidle]
    rfl

/-- Settles O54: a step is an access, a reset or a turn of the unit. -/
theorem scratchIsUnobservable : Obligations.ScratchIsUnobservable := by
  intro s t h
  obtain ⟨m, rfl⟩ := sameButScratch_iff.1 h
  obtain ⟨a, es, hinbox⟩ | ⟨es, hinbox⟩ | hturn := inbox_cases s
  · rw [step_host hinbox, step_host (s := { s with scratch := m }) hinbox]
    exact sameButScratch_hostAccess { s with inbox := es } m a
  · rw [step_reset hinbox, step_reset (s := { s with scratch := m }) hinbox]
    rfl
  · exact sameOutcomeButScratch_of_unitsTurn m hturn

end Sys2Proof.Machine
end

section
/-! PROOF. Runs: a command at every latency, the abandoned command, and the driver's accesses for one block (45_control.md R291, R292;
70_reset_and_hazards.md R381, R392; 46_host_protocol.md R311). -/

namespace Sys2Proof.Machine

/-! ## Runs of events -/

theorem run_succ {s t : State} (k : Nat) (h : step s = .next t) : core.run (k + 1) s = core.run k t := by
  have hstep : core.step s = .next t := h
  simp only [Host.Core.run, hstep]

theorem run_zero (s : State) : core.run 0 s = .next s := rfl

/-- A host access at the head of the schedule. -/
theorem run_host {s : State} {a : Access} {es : List Event} (k : Nat) (h : s.inbox = .host a :: es) :
    core.run (k + 1) s = core.run k (hostAccess { s with inbox := es } a) :=
  run_succ k (step_host h)

/-- Reads leave the block alone. -/
theorem run_reads (n k off : Nat) {s : State} {es : List Event} (h : s.inbox = List.replicate n (Driver.rd off) ++ es) :
    ∃ rs, core.run (n + k) s = core.run k { s with inbox := es, replies := rs } := by
  induction n generalizing s with
  | zero => exact ⟨s.replies, by rw [Nat.zero_add, ← (show s.inbox = es from h)]⟩
  | succ n ih =>
    have hread := run_host (n + k) (show s.inbox = .host (.read off 4) :: (List.replicate n (Driver.rd off) ++ es) from h)
    obtain ⟨rs, hrest⟩ := ih (s := hostAccess { s with inbox := List.replicate n (Driver.rd off) ++ es } (.read off 4)) rfl
    exact ⟨rs, by rw [Nat.add_right_comm, hread, hrest]; rfl⟩

/-- Turns of the unit pass in an idle block. -/
theorem run_idle_turns (n : Nat) {s : State} (hidle : s.busy = false) (h : s.inbox = List.replicate n .unit) :
    core.run n s = .next { s with inbox := [] } := by
  induction n generalizing s with
  | zero =>
    rw [← (show s.inbox = [] from h)]
    rfl
  | succ n ih =>
    have hcons : s.inbox = .unit :: List.replicate n .unit := h
    have hstep : step s = .next { s with inbox := List.replicate n .unit } := by
      rw [step_of_idle (.inr ⟨_, hcons⟩) hidle, passTurn_of_cons hcons]
    rw [run_succ n hstep]
    exact ih hidle rfl

/-- Settles O56: the reset leaves an idle block, in which the unit's turns pass. -/
theorem softResetAbandonsCommand : Obligations.SoftResetAbandonsCommand := by
  intro s v n hv hinbox
  have hwrite : hostAccess { s with inbox := List.replicate n .unit } (.write 0x04 4 v) =
      (State.resetBlock { s with inbox := List.replicate n .unit }).reply .written := by
    rw [hostAccess, hostWrite_ctrl, ctrlWrite_of_reset hv]
  refine ⟨{ s.resetBlock.reply .written with inbox := [] }, ?_, rfl, rfl, rfl, rfl, rfl⟩
  rw [run_host n hinbox, hwrite]
  exact run_idle_turns n rfl rfl

/-! ## A command at every latency (R291, R392) -/

/-- The state in which command `i` is pending, with the schedule `es` and the replies `rs`. -/
def State.issued (s : State) (i : Instr) (es : List Event) (rs : List Reply) : State :=
  { s with busy := true, pending := some (encode i), inbox := es, replies := rs }

/-- The host's write of a command that validates to CMD makes it pending (R284). -/
theorem step_issue {s : State} {i : Instr} {es : List Event} (hidle : s.busy = false) (hvalid : validate s (encode i) = none)
    (hinbox : s.inbox = Driver.cmd i :: es) : step s = .next (s.issued i es (.written :: s.replies)) := by
  have hvalid : validate { s with inbox := es } (encode i) = none := (validate_congr rfl rfl rfl rfl _).trans hvalid
  rw [step_host hinbox, hostAccess, hostWrite_cmd_of_idle (s := { s with inbox := es }) _ hidle, issue_of_none hvalid]
  rfl

/-- The unit's turn completes it (R345). -/
theorem step_issued_unit {s : State} {i : Instr} (es : List Event) (rs : List Reply) (hvalid : validate s (encode i) = none) :
    step (s.issued i (.unit :: es) rs) = .next { (effectOf i s).complete with inbox := es, replies := rs } := by
  have hvalid : validate (s.issued i (.unit :: es) rs) (encode i) = none := (validate_congr rfl rfl rfl rfl _).trans hvalid
  rw [step_of_valid (.inr ⟨es, rfl⟩) rfl rfl (decodeWord_encode i) hvalid, ← complete_effectOf_congr i s true (some (encode i)) es rs]
  rfl

/-- Issuing a command that validates and waiting for it leaves its own effect, whatever the latency. -/
theorem run_command {s : State} {i : Instr} (latency k : Nat) {es : List Event} (hidle : s.busy = false)
    (hvalid : validate s (encode i) = none) (hinbox : s.inbox = Driver.run latency i ++ es) :
    ∃ rs, core.run (latency + 3 + k) s = core.run k { (effectOf i s).complete with inbox := es, replies := rs } := by
  have hschedule : Driver.wait latency ++ es = List.replicate latency (Driver.rd 0x08) ++ .unit :: Driver.rd 0x08 :: es := by
    simp [Driver.wait]
  have hissue := step_issue (es := Driver.wait latency ++ es) hidle hvalid hinbox
  obtain ⟨rs, hwait⟩ := run_reads latency (k + 2) 0x08 (s := s.issued i (Driver.wait latency ++ es) (.written :: s.replies)) hschedule
  have hunit := step_issued_unit (Driver.rd 0x08 :: es) rs hvalid
  obtain ⟨rs', hread⟩ := run_reads 1 k 0x08
    (s := { (effectOf i s).complete with inbox := Driver.rd 0x08 :: es, replies := rs }) (es := es) rfl
  refine ⟨rs', ?_⟩
  calc core.run (latency + 3 + k) s
      = core.run (latency + (k + 2) + 1) s := by rw [show latency + 3 + k = latency + (k + 2) + 1 by omega]
    _ = core.run (latency + (k + 2)) (s.issued i (Driver.wait latency ++ es) (.written :: s.replies)) := run_succ _ hissue
    _ = core.run (k + 1 + 1) (s.issued i (.unit :: Driver.rd 0x08 :: es) rs) := hwait
    _ = core.run (k + 1) { (effectOf i s).complete with inbox := Driver.rd 0x08 :: es, replies := rs } := run_succ _ hunit
    _ = core.run (1 + k) { (effectOf i s).complete with inbox := Driver.rd 0x08 :: es, replies := rs } := by rw [Nat.add_comm]
    _ = core.run k { (effectOf i s).complete with inbox := es, replies := rs' } := hread

/-- Settles O55: the run ends in the command's effect, completed, and so does `exec`. -/
theorem runCompletesAtEveryLatency : Obligations.RunCompletesAtEveryLatency := by
  intro s i latency es hidle hvalid hinbox
  obtain ⟨rs, hrun⟩ := run_command latency 0 hidle hvalid hinbox
  rw [validate_encode] at hvalid
  exact ⟨_, _, hrun, exec_of_valid hvalid, rfl, rfl⟩

/-! ## The driver's accesses for one block (R311) -/

/-- The memory after words were stored one after the other, each at its offset. -/
def storeWords (m : Memory) (ws : List (Nat × Word)) : Memory := ws.foldl (fun m w => m.writeWord w.1 w.2) m

/-- The host's write of a word of a buffer (R283). -/
theorem step_store {s : State} {off : Nat} {v : Word} {es : List Event} (hidle : s.busy = false)
    (hmapped : (Loc.buffer off).mapped s.cfg) (hinbox : s.inbox = Driver.wr off v :: es) :
    step s = .next { s with mem := s.mem.writeWord off v, inbox := es, replies := .written :: s.replies } := by
  have hl : decodeAccess s.cfg off 4 = some (.buffer off) := decodeAccess_offset hmapped
  rw [step_host hinbox, hostAccess, hostWrite_of_some (s := { s with inbox := es }) v hl, writeLoc_of_isData rfl,
    if_neg (by rw [hidle]; decide)]
  rfl

/-- Stores in the buffers of an idle block. -/
theorem run_stores (ws : List (Nat × Word)) (k : Nat) {s : State} {es : List Event} (hidle : s.busy = false)
    (hmapped : ∀ w ∈ ws, (Loc.buffer w.1).mapped s.cfg)
    (hinbox : s.inbox = ws.map (fun w => Driver.wr w.1 w.2) ++ es) :
    ∃ rs, core.run (ws.length + k) s = core.run k { s with mem := storeWords s.mem ws, inbox := es, replies := rs } := by
  induction ws generalizing s with
  | nil => exact ⟨s.replies, by rw [List.length_nil, Nat.zero_add, ← (show s.inbox = es from hinbox)]; rfl⟩
  | cons w ws ih =>
    have hstore := step_store hidle (hmapped w List.mem_cons_self) hinbox
    obtain ⟨rs, hrest⟩ := ih (s := { s with
        mem := s.mem.writeWord w.1 w.2
        inbox := ws.map (fun w => Driver.wr w.1 w.2) ++ es
        replies := .written :: s.replies }) hidle (fun w' hw' => hmapped w' (List.mem_cons_of_mem _ hw')) rfl
    exact ⟨rs, by rw [List.length_cons, Nat.add_right_comm]; exact (run_succ _ hstore).trans hrest⟩

/-- The words of the first `4·n` bytes of a block, each with its offset (20_memory.md R61). -/
def blockWords (base n : Nat) (bs : List Byte) : List (Nat × Word) :=
  (List.range n).map fun k => (base + 4 * k, le32 bs (4 * k))

theorem ldbuf_eq (base n : Nat) (bs : List Byte) :
    Driver.ldbuf base n bs = (blockWords base n bs).map fun w => Driver.wr w.1 w.2 := by
  rw [Driver.ldbuf, blockWords, List.map_map]
  rfl

/-- The bytes of a little-endian word are the bytes it was read from. -/
theorem le32bytes_le32 (bs : List Byte) (i : Nat) :
    le32bytes (le32 bs i) = [byteAt bs i, byteAt bs (i + 1), byteAt bs (i + 2), byteAt bs (i + 3)] := by
  simp only [le32bytes, le32, List.cons.injEq, and_true]
  refine ⟨?_, ?_, ?_, ?_⟩
  all_goals
    refine BitVec.eq_of_getLsbD_eq fun k hk => ?_
    simp only [BitVec.getLsbD_extractLsb', BitVec.getLsbD_append]
    grind

theorem getD_le32bytes_le32 (bs : List Byte) (i : Nat) {j : Nat} (hj : j < 4) :
    (le32bytes (le32 bs i)).getD j 0 = byteAt bs (i + j) := by
  rw [le32bytes_le32]
  interval_cases j <;> rfl

/-- Storing a block word by word stores its bytes. -/
theorem read_storeWords (m : Memory) (base n : Nat) (bs : List Byte) (a : Nat) :
    (storeWords m (blockWords base n bs)).read a =
      if base ≤ a ∧ a < base + 4 * n then byteAt bs (a - base) else m.read a := by
  induction n with
  | zero =>
    rw [if_neg (by omega)]
    rfl
  | succ n ih =>
    have hsucc : storeWords m (blockWords base (n + 1) bs) =
        (storeWords m (blockWords base n bs)).writeBytes (base + 4 * n) (le32bytes (le32 bs (4 * n))) := by
      rw [storeWords, blockWords, List.range_succ, List.map_append, List.foldl_append]
      rfl
    rw [hsucc, Memory.read_writeBytes, length_le32bytes, ih]
    by_cases hlast : base + 4 * n ≤ a ∧ a < base + 4 * n + 4
    · rw [if_pos hlast, if_pos (by omega), getD_le32bytes_le32 bs (4 * n) (by omega)]
      congr 1
      omega
    · rw [if_neg hlast]
      exact if_congr (by omega) rfl rfl

/-- The block that was stored is read back. -/
theorem readBytes_storeWords (m : Memory) (base : Nat) {n : Nat} {bs : List Byte} (h : bs.length = 4 * n) :
    (storeWords m (blockWords base n bs)).readBytes base bs.length = bs := by
  rw [Memory.readBytes_eq]
  refine List.ext_getElem (by rw [List.length_map, List.length_range]) fun i _ hi => ?_
  rw [List.getElem_map, List.getElem_range, read_storeWords, if_pos (by omega), Nat.add_sub_cancel_left, byteAt,
    List.getD_eq_getElem _ _ hi]

theorem h256_effectOf_sha256Compress (s : State) :
    (effectOf .sha256Compress s).h256 = sha256Compress s.h256 s.m256 := rfl

/-- Settles O60: the stores leave the block in M256, and the command compresses it. -/
theorem driverBlockIsCompressed : Obligations.DriverBlockIsCompressed := by
  intro s block latency hidle hlength hinbox
  have hmapped : ∀ w ∈ blockWords m256Base 16 block, (Loc.buffer w.1).mapped s.cfg := by
    intro w hw
    obtain ⟨k, hk, rfl⟩ := List.mem_map.1 hw
    have hk := List.mem_range.1 hk
    simp only [Loc.mapped, inBuffer_iff, m256Base, windowBytes]
    omega
  have hschedule : s.inbox = (blockWords m256Base 16 block).map (fun w => Driver.wr w.1 w.2) ++
      (Driver.run latency .sha256Compress ++ []) := by
    rw [List.append_nil, ← ldbuf_eq]
    exact hinbox
  have hcount : s.inbox.length = (blockWords m256Base 16 block).length + (latency + 3 + 0) := by
    rw [hschedule]
    simp [Driver.run, Driver.wait]
  obtain ⟨rs, hload⟩ := run_stores _ (latency + 3 + 0) hidle hmapped hschedule
  obtain ⟨rs', hrun⟩ := run_command (i := .sha256Compress) latency 0 (s := { s with
      mem := storeWords s.mem (blockWords m256Base 16 block)
      inbox := Driver.run latency .sha256Compress ++ []
      replies := rs }) (es := []) hidle (validate_encode _ _) rfl
  have hblock : (storeWords s.mem (blockWords m256Base 16 block)).readBytes m256Base 64 = block := by
    rw [← hlength]
    exact readBytes_storeWords s.mem m256Base hlength
  refine ⟨_, (congrArg (core.run · s) hcount).trans (hload.trans (hrun.trans (run_zero _))), rfl, rfl, ?_, ?_⟩
  · rw [State.m256]
    exact hblock
  · rw [State.complete_h256, h256_effectOf_sha256Compress, State.m256, hblock]

end Sys2Proof.Machine
end

section
/-! PROOF. The driver's buffering: SHA-2 chunking and padding, and the compressions of a BLAKE2b message (46_host_protocol.md R311 to
R313, R319 to R323). -/

namespace Sys2Proof.Machine.Driver

/-! ## Chunking (R312) -/

theorem takeBlocks_of_lt {bs : Nat} (fuel : Nat) {buf : List Byte} (h : buf.length < bs) : takeBlocks bs fuel buf = ([], buf) := by
  cases fuel with
  | zero => rfl
  | succ fuel => rw [takeBlocks, if_neg (by omega)]

theorem takeBlocks_of_le {bs : Nat} (fuel : Nat) {buf : List Byte} (h : bs ≤ buf.length) :
    takeBlocks bs (fuel + 1) buf =
      (buf.take bs :: (takeBlocks bs fuel (buf.drop bs)).1, (takeBlocks bs fuel (buf.drop bs)).2) := by
  rw [takeBlocks, if_pos h]

/-- With fuel for every byte, the fuel does not matter. -/
theorem takeBlocks_fuel {bs : Nat} (hbs : 0 < bs) {f g : Nat} {buf : List Byte} (hf : buf.length ≤ f) (hg : buf.length ≤ g) :
    takeBlocks bs f buf = takeBlocks bs g buf := by
  induction f generalizing g buf with
  | zero => rw [takeBlocks_of_lt 0 (by omega), takeBlocks_of_lt g (by omega)]
  | succ f ih =>
    rcases Nat.lt_or_ge buf.length bs with hlt | hle
    · rw [takeBlocks_of_lt _ hlt, takeBlocks_of_lt _ hlt]
    · obtain ⟨g, rfl⟩ : ∃ k, g = k + 1 := ⟨g - 1, by omega⟩
      have hdrop : (buf.drop bs).length = buf.length - bs := List.length_drop
      rw [takeBlocks_of_le f hle, takeBlocks_of_le g hle, ih (g := g) (by omega) (by omega)]

theorem length_takeBlocks_snd_le (bs f : Nat) (x : List Byte) : (takeBlocks bs f x).2.length ≤ x.length := by
  induction f generalizing x with
  | zero => exact le_rfl
  | succ f ih =>
    rcases Nat.lt_or_ge x.length bs with hlt | hle
    · rw [takeBlocks_of_lt _ hlt]
    · rw [takeBlocks_of_le _ hle]
      exact (ih _).trans (by rw [List.length_drop]; exact Nat.sub_le _ _)

/-- The blocks of a string and more: first those of the string, then those of what it left and the rest. -/
theorem takeBlocks_append {bs : Nat} (hbs : 0 < bs) {f g : Nat} {x y : List Byte} (hf : x.length ≤ f)
    (hg : x.length + y.length ≤ g) :
    takeBlocks bs g (x ++ y) =
      ((takeBlocks bs f x).1 ++ (takeBlocks bs g ((takeBlocks bs f x).2 ++ y)).1,
        (takeBlocks bs g ((takeBlocks bs f x).2 ++ y)).2) := by
  induction f generalizing g x with
  | zero =>
    rw [takeBlocks_of_lt 0 (by omega)]
    rfl
  | succ f ih =>
    rcases Nat.lt_or_ge x.length bs with hlt | hle
    · rw [takeBlocks_of_lt _ hlt]
      rfl
    · obtain ⟨g, rfl⟩ : ∃ k, g = k + 1 := ⟨g - 1, by omega⟩
      have hdrop : (x.drop bs).length = x.length - bs := List.length_drop
      have hleft := length_takeBlocks_snd_le bs f (x.drop bs)
      have hfuel : takeBlocks bs (g + 1) ((takeBlocks bs f (x.drop bs)).2 ++ y) =
          takeBlocks bs g ((takeBlocks bs f (x.drop bs)).2 ++ y) :=
        takeBlocks_fuel hbs (by rw [List.length_append]; omega) (by rw [List.length_append]; omega)
      rw [takeBlocks_of_le g (by rw [List.length_append]; omega), takeBlocks_of_le f hle, List.take_append_of_le_length hle,
        List.drop_append_of_le_length hle, ih (g := g) (by omega) (by omega), hfuel]
      rfl

/-- The blocks of a whole string and what is left, as `sha2Update` takes them. -/
def takeAll (bs : Nat) (x : List Byte) : List (List Byte) × List Byte := takeBlocks bs x.length x

theorem sha2Update_eq (d : Sha2Engine) (c : HashCtx) (s : List Byte) :
    sha2Update d c s =
      (⟨(takeAll d.blockBytes (c.buf ++ s)).2, c.count + s.length⟩, (takeAll d.blockBytes (c.buf ++ s)).1) := rfl

theorem takeAll_append {bs : Nat} (hbs : 0 < bs) (x y : List Byte) :
    takeAll bs (x ++ y) =
      ((takeAll bs x).1 ++ (takeAll bs ((takeAll bs x).2 ++ y)).1, (takeAll bs ((takeAll bs x).2 ++ y)).2) := by
  have hleft : (takeAll bs x).2.length ≤ x.length := length_takeBlocks_snd_le bs x.length x
  have hfuel : takeAll bs ((takeAll bs x).2 ++ y) = takeBlocks bs (x ++ y).length ((takeAll bs x).2 ++ y) :=
    takeBlocks_fuel hbs le_rfl (by rw [List.length_append, List.length_append]; omega)
  rw [hfuel]
  exact takeBlocks_append hbs le_rfl (by rw [List.length_append])

/-- Settles O57: the blocks of a buffer and a message in two parts. -/
theorem sha2ChunkingInvariance : Obligations.Sha2ChunkingInvariance := by
  intro d c a b hbs _
  simp only [sha2Update_eq]
  rw [← List.append_assoc, takeAll_append hbs (c.buf ++ a) b, List.length_append, Nat.add_assoc]
  exact ⟨rfl, rfl⟩

/-! ## Padding (R313) -/

/-- The padding is its first byte, the zeros, and the length field. -/
theorem length_sha2Padding (d : Sha2Engine) (count : Nat) : (sha2Padding d count).length =
    1 + (2 * d.blockBytes - 1 - d.lenBytes - count % d.blockBytes) % d.blockBytes + (d.lenBytes - 8) + 8 := by
  simp only [sha2Padding, List.length_cons, List.length_append, List.length_replicate, length_be64bytes]
  omega

/-- Settles O58: the number of zeros fills the block. -/
theorem sha2PaddingFillsBlocks : Obligations.Sha2PaddingFillsBlocks := by
  intro d count hd
  rw [length_sha2Padding]
  rcases hd with rfl | rfl
  · simp only [sha256Engine]
    omega
  · simp only [sha512Engine]
    omega

/-! ## The compressions of a BLAKE2b message (R319, R321, R323) -/

/-- Lazy buffering keeps this of a context and the compressions asked for since `c`: full blocks only, and no byte lost; once a byte has
come the buffer is not empty. -/
structure Buffered (c : B2Ctx) (n : Nat) (u : B2Ctx × List B2Call) : Prop where
  fin : u.1.fin = false
  buf_le : u.1.buf.length ≤ 128
  count : 128 * u.2.length + u.1.buf.length = c.buf.length + n
  nonempty : 0 < c.buf.length + n → 0 < u.1.buf.length
  full : ∀ k ∈ u.2, k.len = 128 ∧ k.f = false ∧ k.block.length = 128

theorem buffered_updateByte {c : B2Ctx} (b : Byte) (hfin : c.fin = false) (hbuf : c.buf.length ≤ 128) :
    Buffered c 1 (b2UpdateByte c b) := by
  rw [b2UpdateByte]
  split_ifs with hfull
  · exact ⟨hfin, by simp, by simp; omega, by simp, by simp [hfull]⟩
  · exact ⟨hfin, by simp; omega, by simp, by simp, by simp⟩

theorem buffered_update {c : B2Ctx} (msg : List Byte) (hfin : c.fin = false) (hbuf : c.buf.length ≤ 128) :
    Buffered c msg.length (b2Update c msg) := by
  induction msg generalizing c with
  | nil => exact ⟨hfin, hbuf, by simp [b2Update], fun h => h, by simp [b2Update]⟩
  | cons b msg ih =>
    have hone := buffered_updateByte b hfin hbuf
    have hrest := ih hone.fin hone.buf_le
    have hcons : b2Update c (b :: msg) =
        ((b2Update (b2UpdateByte c b).1 msg).1, (b2UpdateByte c b).2 ++ (b2Update (b2UpdateByte c b).1 msg).2) := by
      rw [b2Update, if_neg (by rw [hfin]; decide)]
    have hcount := hone.count
    have hcount' := hrest.count
    rw [hcons]
    refine ⟨hrest.fin, hrest.buf_le, ?_, fun _ => hrest.nonempty ?_, fun k hk => ?_⟩
    · simp only [List.length_append, List.length_cons]
      omega
    · have := hone.nonempty (by omega)
      omega
    · exact (List.mem_append.1 hk).elim (hone.full k) (hrest.full k)

/-- The context a message starts from: empty, or the padded key block (R318, R320). -/
theorem b2InitCtx_start (nn : Nat) {key : List Byte} (hkey : key.length ≤ 64) :
    (b2InitCtx nn key).fin = false ∧ (b2InitCtx nn key).buf.length = if key.isEmpty then 0 else 128 := by
  rw [b2InitCtx]
  split_ifs
  · exact ⟨rfl, rfl⟩
  · refine ⟨rfl, ?_⟩
    simp only [List.length_append, List.length_replicate]
    omega

theorem sum_len_of_full {ks : List B2Call} (h : ∀ k ∈ ks, k.len = 128) : (ks.map B2Call.len).sum = 128 * ks.length := by
  rw [List.map_congr_left h, List.map_const', List.sum_replicate, smul_eq_mul, Nat.mul_comm]

/-- `final` asks for one block of the size (R321). -/
theorem length_block_b2LastCall {c : B2Ctx} (h : c.buf.length ≤ 128) : (b2LastCall c).block.length = 128 := by
  simp only [b2LastCall, List.length_append, List.length_replicate]
  omega

/-- Settles O59: the updates ask for the full blocks, `final` for the last. -/
theorem blake2bCompressionCount : Obligations.Blake2bCompressionCount := by
  intro nn key msg hkey
  obtain ⟨hfin, hstart⟩ := b2InitCtx_start nn hkey
  obtain ⟨-, hbuf, hcount, hnonempty, hfull⟩ := buffered_update msg hfin (by rw [hstart]; split_ifs <;> decide)
  have hsum := sum_len_of_full fun k hk => (hfull k hk).1
  rw [← hstart]
  simp only [b2Calls]
  refine ⟨?_, ?_, ?_, ?_⟩
  · rw [List.length_append, List.length_singleton]
    omega
  · rw [List.map_append, List.sum_append, hsum]
    simpa [b2LastCall] using hcount
  · rw [List.dropLast_concat]
    exact hfull
  · exact ⟨_, List.getLast?_concat, rfl, length_block_b2LastCall hbuf⟩

end Sys2Proof.Machine.Driver
end
